-- ==== Sys2Proof/Word.lean ====
section
/-!
DEFINITION. The word of the interface and the exact number domain.

R61, R90: every command word, payload word and response word is one 32-bit unit, and a `NUM` value
occupies exactly one word. R11: a `Num` is a finite real, `+Inf`, `-Inf` or `NaN`; here the finite part is taken
from a field: the reals for the reference semantics, the rationals for what a number format stores.
-/

namespace Sys2Proof

/-- One 32-bit unit of the interface (R61, R90). -/
abbrev Word := BitVec 32

/-- The number domain of R11: a finite value, `+Inf`, `-Inf` or `NaN`. -/
inductive Extended (K : Type) where
  | fin (x : K)
  | posInf
  | negInf
  | nan
  deriving DecidableEq, Repr, Inhabited

/-- The exact value of a stored number: its finite part is rational (notes/assumptions/12.md). -/
abbrev Ext := Extended Rat

end Sys2Proof
end

