-- ==== Sys2Proof/Config.lean ====
section
/-!
DEFINITION. What an implementation of SEQ-CORE fixes (R7), and the values the spec leaves open.

The parameters stand as plain data in `Config`, and a `Config` stands in `State`, so that a statement
about every state is a statement about every implementation. The open values are opaque constants:
nothing in Lean can evaluate one.
-/

namespace Sys2Proof

/-- `WINDOW_KIND` (R7, R151). -/
inductive WindowKind where
  | bh4
  | hann
  | hamming
  deriving DecidableEq, Repr, Inhabited

/-- The magnitude-only transform unit of R154. `reference` is R153 with one rounding of each magnitude;
`other id` is any other implementation of the unit, whose order of additions and rounding is its own. -/
inductive FftUnit where
  | reference
  | other (id : Nat)
  deriving DecidableEq, Repr, Inhabited

/-- The real functions of R11 whose value at a rational can be irrational, and the product with the real number
pi (R13), `piMul x = PI * x`. -/
inductive RealFn where
  | piMul
  | sqrt
  | sin
  | cos
  | tan
  | log10
  | pow10
  deriving DecidableEq, Repr, Inhabited

/-- A number format supplied as data (R12): what words store, what `rnd` makes of exact values, and the rounded values
of the real functions. The first entry of an operand counts, so each depends on its operand alone. -/
structure FormatTable where
  value : List (Word × Ext)
  rnd : List (Ext × Word)
  real : List ((RealFn × Rat) × Word)
  deriving DecidableEq, Repr, Inhabited

/-- `NUM` (R7, R12): the number format of a stored `Num`. `binary32` is the default; `other id table` is any other
format: what `table` supplies, and for an operand it does not list the uninterpreted functions number `id`
(`Config.otherValue` and the constants below it, notes/assumptions/12.md). -/
inductive NumFormat where
  | binary32
  | other (id : Nat) (table : FormatTable)
  deriving DecidableEq, Repr, Inhabited

/-- The parameters of R7 that are not structural. (`NCH` is the length of the state's channel list.) -/
structure Config where
  /-- `NUM`, with its `rnd` and primitives (R12) -/
  num : NumFormat
  /-- the unit of R154 -/
  fft : FftUnit
  /-- `WINDOW_KIND` -/
  window : WindowKind
  /-- `CMAX`: the largest FIFO capacity `FPREP` accepts -/
  cmax : Nat
  /-- `CW` (U5): the width in bits of an implementation's cursor counters. No step reads it: the model's cursors are
  unbounded (R121), and `State.CursorsFit` (Sys2Proof/Safety.lean) says which states an implementation reaches. -/
  cw : Nat
  /-- `TOL` (R12, U6): how far a result of an implementation may lie from the reference value. The transform unit
  of R154 is held to it. DESIGN CHOICE (notes/assumptions/15.md): an absolute distance, one for every result. -/
  tol : Rat
  deriving DecidableEq, Repr, Inhabited

/-- The ranges of the parameters (R7): `1 <= CMAX <= 262143`, `1 <= NCH <= 16`, and a tolerance that is none below
zero. -/
def Config.Ok (cfg : Config) (nch : Nat) : Prop :=
  1 ≤ cfg.cmax ∧ cfg.cmax ≤ 262143 ∧ 1 ≤ nch ∧ nch ≤ 16 ∧ 0 ≤ cfg.tol

/-- DESIGN CHOICE (notes/assumptions/2.md): the configuration the reset state is written with. `NUM`,
`WINDOW_KIND` are the defaults of R7; `CMAX`, `CW` and `TOL` have none: `CMAX` is the largest value R7 admits. -/
def Config.default : Config :=
  { num := .binary32, fft := .reference, window := .bh4, cmax := 262143, cw := 64, tol := 1 / 1000 }

/-- The default `NCH` of R7. -/
def Config.defaultNch : Nat := 2

/-- The exact value of a word in the number format `other id table`, where the table does not list it (R12: open). -/
opaque Config.otherValue : Nat → Word → Ext

/-- The rounding hook `rnd` of the number format `other id table`, where the table does not list the operand (R12: open,
depends on its operand alone). -/
opaque Config.otherRnd : Nat → Ext → Word

/-- In the format `other id table`, the rounded value of a real function at a rational of its domain, where the table
does not list it (R11, R12). -/
opaque Config.otherReal : Nat → RealFn → Rat → Word

/-- R154: one magnitude of a transform unit that is not the reference one, from the samples and the bin (open up to
`TOL`). -/
opaque Config.otherFft : NumFormat → Nat → List Word → Nat → Word

/-- R154: whether such a unit answers `+Inf` or `NaN` when a sample is not finite (open). -/
opaque Config.otherFftInf : NumFormat → Nat → List Word → Nat → Bool

/-- FREE VALUE (notes/assumptions/5.md): the Num words of a CoeffSet the spec leaves unspecified (R202, U3). -/
opaque Config.freeWord : Nat → Nat → Word

/-- FREE VALUE (notes/assumptions/5.md): the bits of a CoeffSet the spec leaves unspecified (R202, U3). -/
opaque Config.freeBit : Nat → Nat → Bool

end Sys2Proof
end

