-- ==== Sys2Proof/Syntax.lean ====
section
/-!
DEFINITION. The 21 commands of SEQ-CORE (R95), one constructor per row of spec/opcode_table.json.

A constructor carries the fields its format uses (R92) and the payload words that follow the command word
(R97). The fields stay raw: `k = 3`, `ch >= NCH` and an unimplemented register are well formed as bits and
are refused in the command's own rule (R100). The port is no part of a command (R90). The pseudo-instructions
`PUSHBLK` and `UPD` (R103) are other names for `FPUSH` and for `CCOEF` then `APPLY`.
-/

namespace Sys2Proof

inductive Instr where
  /-- `FPREP q, cap` (R124), format QI -/
  | fprep (ch : BitVec 4) (k : BitVec 2) (cap : BitVec 18)
  /-- `FPUSH q, cnt : item` (R125), format QI; `cnt` is the number of payload words -/
  | fpush (ch : BitVec 4) (k : BitVec 2) (item : List Word)
  /-- `FPULL q` (R126), format Q -/
  | fpull (ch : BitVec 4) (k : BitVec 2)
  /-- `FAVAIL q` (R127), format Q -/
  | favail (ch : BitVec 4) (k : BitVec 2)
  /-- `FOVF q` (R128), format Q -/
  | fovf (ch : BitVec 4) (k : BitVec 2)
  /-- `CHORD ch, ord` (R158), format CI -/
  | chord (ch : BitVec 4) (ord : BitVec 18)
  /-- `RFEED ch` (R142), format C -/
  | rfeed (ch : BitVec 4)
  /-- `SPEC ch : floorDb` (R160), format C -/
  | spec (ch : BitVec 4) (floorDb : Word)
  /-- `CGEN ch : bx, by, bw, bh, binWidthHz, floorDb` (R186), format C; `bt` is `by` -/
  | cgen (ch : BitVec 4) (bx bt bw bh binWidthHz floorDb : Word)
  /-- `CGET ch` (R187), format C -/
  | cget (ch : BitVec 4)
  /-- `RDCRV ch` (R188), format C -/
  | rdcrv (ch : BitVec 4)
  /-- `CCOEF : fs` (R210), format Z -/
  | ccoef (fs : Word)
  /-- `APPLY` (R212), format Z -/
  | apply
  /-- `PROC n : samples` (R214), format I; the samples are channel-major (R97) -/
  | proc (n : BitVec 18) (samples : List Word)
  /-- `RDCOEF` (R213), format Z -/
  | rdcoef
  /-- `WRR r : v` (R242), format R -/
  | wrr (r : BitVec 8) (v : Word)
  /-- `RDR r` (R243), format R -/
  | rdr (r : BitVec 8)
  /-- `SNAP` (R245), format Z -/
  | snap
  /-- `TCLR` (R247), format Z -/
  | tclr
  /-- `TICK : fs` (R248), format Z -/
  | tick (fs : Word)
  /-- `POLL ch : fs, bx, by, bw, bh` (R250), format C; `bt` is `by` -/
  | poll (ch : BitVec 4) (fs bx bt bw bh : Word)
  deriving DecidableEq, Repr

end Sys2Proof
end

