-- ==== Sys2Proof/WellFormed.lean ====
section
/-!
DEFINITION. Which terms of `Instr` are commands: the payload has the length R97 gives it.

R62: a model takes each command with exactly the payload R97 gives it. Only `FPUSH` and `PROC` carry a
payload whose length is not fixed by the constructor.
-/

namespace Sys2Proof

/-- `FPUSH` has `imm` payload words and `imm` is 18 bits wide; `PROC` has `NCH * imm` (R94, R97). -/
def Instr.WellFormed (nch : Nat) : Instr → Bool
  | .fprep _ _ _ => true
  | .fpush _ _ item => decide (item.length < 2 ^ 18)
  | .fpull _ _ => true
  | .favail _ _ => true
  | .fovf _ _ => true
  | .chord _ _ => true
  | .rfeed _ => true
  | .spec _ _ => true
  | .cgen _ _ _ _ _ _ _ => true
  | .cget _ => true
  | .rdcrv _ => true
  | .ccoef _ => true
  | .apply => true
  | .proc n samples => decide (samples.length = nch * n.toNat)
  | .rdcoef => true
  | .wrr _ _ => true
  | .rdr _ => true
  | .snap => true
  | .tclr => true
  | .tick _ => true
  | .poll _ _ _ _ _ _ => true

end Sys2Proof
end

