-- ==== Sys2Proof/Decode.lean ====
section
/-!
DEFINITION. Decoding a command from the words of a port's stream, and the encoder (R90 to R101).
-/

namespace Sys2Proof

/-! ## Opcodes, formats and fields -/

/-- The opcodes of R95. -/
inductive Op where
  | fprep | fpush | fpull | favail | fovf
  | chord | rfeed | spec
  | cgen | cget | rdcrv
  | ccoef | apply | proc | rdcoef
  | wrr | rdr | snap | tclr | tick | poll
  deriving DecidableEq, Repr

/-- The `op` field of each command (R95). -/
def Op.code : Op → BitVec 8
  | .fprep => 0x10#8
  | .fpush => 0x11#8
  | .fpull => 0x12#8
  | .favail => 0x13#8
  | .fovf => 0x14#8
  | .chord => 0x20#8
  | .rfeed => 0x21#8
  | .spec => 0x22#8
  | .cgen => 0x30#8
  | .cget => 0x31#8
  | .rdcrv => 0x32#8
  | .ccoef => 0x40#8
  | .apply => 0x41#8
  | .proc => 0x42#8
  | .rdcoef => 0x43#8
  | .wrr => 0x50#8
  | .rdr => 0x51#8
  | .snap => 0x52#8
  | .tclr => 0x53#8
  | .tick => 0x54#8
  | .poll => 0x55#8

def Op.all : List Op :=
  [.fprep, .fpush, .fpull, .favail, .fovf, .chord, .rfeed, .spec, .cgen, .cget, .rdcrv,
    .ccoef, .apply, .proc, .rdcoef, .wrr, .rdr, .snap, .tclr, .tick, .poll]

/-- The command formats of R92. -/
inductive Format where
  | Z | C | CI | Q | QI | R | I
  deriving DecidableEq, Repr

/-- The format of each command (R95). -/
def Op.format : Op → Format
  | .fprep => .QI
  | .fpush => .QI
  | .fpull => .Q
  | .favail => .Q
  | .fovf => .Q
  | .chord => .CI
  | .rfeed => .C
  | .spec => .C
  | .cgen => .C
  | .cget => .C
  | .rdcrv => .C
  | .ccoef => .Z
  | .apply => .Z
  | .proc => .I
  | .rdcoef => .Z
  | .wrr => .R
  | .rdr => .R
  | .snap => .Z
  | .tclr => .Z
  | .tick => .Z
  | .poll => .C

/-- `op`, bits 31:24 (R91). -/
def opField (w : Word) : BitVec 8 := w.extractLsb' 24 8

/-- `ch`, bits 23:20 (R91). -/
def chField (w : Word) : BitVec 4 := w.extractLsb' 20 4

/-- `k`, bits 19:18 (R91). -/
def kField (w : Word) : BitVec 2 := w.extractLsb' 18 2

/-- `imm`, bits 17:0 (R91). -/
def immField (w : Word) : BitVec 18 := w.extractLsb' 0 18

/-- The register number of format R, `imm[7:0]` (R92). -/
def regField (w : Word) : BitVec 8 := w.extractLsb' 0 8

/-- The command word with the given fields (R91); `a ++ b` has `a` the more significant (R8). -/
def mkWord (op : BitVec 8) (ch : BitVec 4) (k : BitVec 2) (imm : BitVec 18) : Word := op ++ ch ++ k ++ imm

/-- Every field the format does not use is zero (R92, R100). -/
def Format.unusedZero (w : Word) : Format → Bool
  | .Z => chField w == 0 && kField w == 0 && immField w == 0
  | .C => kField w == 0 && immField w == 0
  | .CI => kField w == 0
  | .Q => immField w == 0
  | .QI => true
  | .R => chField w == 0 && kField w == 0 && immField w >>> 8 == 0
  | .I => chField w == 0 && kField w == 0

/-- The command an `op` field names, where it names one (R95). -/
def opOfCode (c : BitVec 8) : Option Op := Op.all.find? fun o => o.code == c

/-- The command a word selects, where it selects one (R96, R100). -/
def selectOp (w : Word) : Option Op :=
  match opOfCode (opField w) with
  | none => none
  | some o => if o.format.unusedZero w then some o else none

/-! ## The match and mask of each command (R96) -/

/-- The match of each row of R96. -/
def Op.matchWord (o : Op) : Word := mkWord o.code 0 0 0

/-- The mask of each row of R96. -/
def Op.mask : Op → Word
  | .fprep => 0xFF000000#32
  | .fpush => 0xFF000000#32
  | .fpull => 0xFF03FFFF#32
  | .favail => 0xFF03FFFF#32
  | .fovf => 0xFF03FFFF#32
  | .chord => 0xFF0C0000#32
  | .rfeed => 0xFF0FFFFF#32
  | .spec => 0xFF0FFFFF#32
  | .cgen => 0xFF0FFFFF#32
  | .cget => 0xFF0FFFFF#32
  | .rdcrv => 0xFF0FFFFF#32
  | .ccoef => 0xFFFFFFFF#32
  | .apply => 0xFFFFFFFF#32
  | .proc => 0xFFFC0000#32
  | .rdcoef => 0xFFFFFFFF#32
  | .wrr => 0xFFFFFF00#32
  | .rdr => 0xFFFFFF00#32
  | .snap => 0xFFFFFFFF#32
  | .tclr => 0xFFFFFFFF#32
  | .tick => 0xFFFFFFFF#32
  | .poll => 0xFF0FFFFF#32

/-! ## Decoding -/

/-- The number of payload words after a command word, a function of the word and of `NCH` (R97). -/
def payloadCount (nch : Nat) (w : Word) : Nat :=
  match selectOp w with
  | none => 0
  | some .fprep => 0
  | some .fpush => (immField w).toNat
  | some .fpull => 0
  | some .favail => 0
  | some .fovf => 0
  | some .chord => 0
  | some .rfeed => 0
  | some .spec => 1
  | some .cgen => 6
  | some .cget => 0
  | some .rdcrv => 0
  | some .ccoef => 1
  | some .apply => 0
  | some .proc => nch * (immField w).toNat
  | some .rdcoef => 0
  | some .wrr => 1
  | some .rdr => 0
  | some .snap => 0
  | some .tclr => 0
  | some .tick => 1
  | some .poll => 5

/-- Payload word `j` of a payload. -/
def payloadWord (payload : List Word) (j : Nat) : Word := payload.getD j 0

/-- The command of a selected opcode, from its word and its payload. -/
def build (o : Op) (w : Word) (p : List Word) : Instr :=
  match o with
  | .fprep => .fprep (chField w) (kField w) (immField w)
  | .fpush => .fpush (chField w) (kField w) p
  | .fpull => .fpull (chField w) (kField w)
  | .favail => .favail (chField w) (kField w)
  | .fovf => .fovf (chField w) (kField w)
  | .chord => .chord (chField w) (immField w)
  | .rfeed => .rfeed (chField w)
  | .spec => .spec (chField w) (payloadWord p 0)
  | .cgen => .cgen (chField w) (payloadWord p 0) (payloadWord p 1) (payloadWord p 2) (payloadWord p 3)
      (payloadWord p 4) (payloadWord p 5)
  | .cget => .cget (chField w)
  | .rdcrv => .rdcrv (chField w)
  | .ccoef => .ccoef (payloadWord p 0)
  | .apply => .apply
  | .proc => .proc (immField w) p
  | .rdcoef => .rdcoef
  | .wrr => .wrr (regField w) (payloadWord p 0)
  | .rdr => .rdr (regField w)
  | .snap => .snap
  | .tclr => .tclr
  | .tick => .tick (payloadWord p 0)
  | .poll => .poll (chField w) (payloadWord p 0) (payloadWord p 1) (payloadWord p 2) (payloadWord p 3)
      (payloadWord p 4)

/-- Why the head of a stream gives no command. -/
inductive DecodeError where
  /-- no word has arrived -/
  | noWord
  /-- the word names no opcode of R95 -/
  | unknownOpcode (w : Word)
  /-- the opcode is known and a must-be-zero field is not zero (R100) -/
  | unusedNotZero (o : Op) (w : Word)
  /-- the word selects a command whose payload has not arrived whole -/
  | payloadMissing (o : Op) (need : Nat)
  deriving DecidableEq, Repr

/-- The command at the head of a stream of words and the words after it (R90, R97). Total on any words. -/
def decode (nch : Nat) : List Word → Except DecodeError (Instr × List Word)
  | [] => .error .noWord
  | w :: rest =>
    match opOfCode (opField w) with
    | none => .error (.unknownOpcode w)
    | some o =>
      if o.format.unusedZero w then
        let need := payloadCount nch w
        if rest.length < need then .error (.payloadMissing o need)
        else .ok (build o w (rest.take need), rest.drop need)
      else .error (.unusedNotZero o w)

/-! ## The encoder -/

/-- The command word of an instruction (R91, R92, R95). -/
def Instr.word : Instr → Word
  | .fprep ch k cap => mkWord Op.fprep.code ch k cap
  | .fpush ch k item => mkWord Op.fpush.code ch k (BitVec.ofNat 18 item.length)
  | .fpull ch k => mkWord Op.fpull.code ch k 0
  | .favail ch k => mkWord Op.favail.code ch k 0
  | .fovf ch k => mkWord Op.fovf.code ch k 0
  | .chord ch ord => mkWord Op.chord.code ch 0 ord
  | .rfeed ch => mkWord Op.rfeed.code ch 0 0
  | .spec ch _ => mkWord Op.spec.code ch 0 0
  | .cgen ch _ _ _ _ _ _ => mkWord Op.cgen.code ch 0 0
  | .cget ch => mkWord Op.cget.code ch 0 0
  | .rdcrv ch => mkWord Op.rdcrv.code ch 0 0
  | .ccoef _ => mkWord Op.ccoef.code 0 0 0
  | .apply => mkWord Op.apply.code 0 0 0
  | .proc n _ => mkWord Op.proc.code 0 0 n
  | .rdcoef => mkWord Op.rdcoef.code 0 0 0
  | .wrr r _ => mkWord Op.wrr.code 0 0 (r.setWidth 18)
  | .rdr r => mkWord Op.rdr.code 0 0 (r.setWidth 18)
  | .snap => mkWord Op.snap.code 0 0 0
  | .tclr => mkWord Op.tclr.code 0 0 0
  | .tick _ => mkWord Op.tick.code 0 0 0
  | .poll ch _ _ _ _ _ => mkWord Op.poll.code ch 0 0

/-- The payload words of an instruction, in the order of R97. -/
def Instr.payload : Instr → List Word
  | .fprep _ _ _ => []
  | .fpush _ _ item => item
  | .fpull _ _ => []
  | .favail _ _ => []
  | .fovf _ _ => []
  | .chord _ _ => []
  | .rfeed _ => []
  | .spec _ floorDb => [floorDb]
  | .cgen _ bx bt bw bh binWidthHz floorDb => [bx, bt, bw, bh, binWidthHz, floorDb]
  | .cget _ => []
  | .rdcrv _ => []
  | .ccoef fs => [fs]
  | .apply => []
  | .proc _ samples => samples
  | .rdcoef => []
  | .wrr _ v => [v]
  | .rdr _ => []
  | .snap => []
  | .tclr => []
  | .tick fs => [fs]
  | .poll _ fs bx bt bw bh => [fs, bx, bt, bw, bh]

/-- The words of an instruction (R90). -/
def encode (i : Instr) : List Word := i.word :: i.payload

/-! ## Pseudo-instructions (R103) -/

/-- `PUSHBLK ch : s0, ...` is `FPUSH SF[ch]` (R103). -/
def Instr.pushblk (ch : BitVec 4) (samples : List Word) : Instr := .fpush ch 0 samples

/-- `UPD : fs` is `CCOEF : fs`, then `APPLY` (R103). -/
def Instr.upd (fs : Word) : List Instr := [.ccoef fs, .apply]

/-! ## Words on a byte-wide transport (R61) -/

/-- The bytes of a word, least significant first (R61). -/
def bytesOfWord (w : Word) : List (BitVec 8) :=
  [w.extractLsb' 0 8, w.extractLsb' 8 8, w.extractLsb' 16 8, w.extractLsb' 24 8]

/-- The word of four bytes in transport order (R61). -/
def wordOfBytes (b0 b1 b2 b3 : BitVec 8) : Word := b3 ++ b2 ++ b1 ++ b0

/-- The bytes a list of words is sent as (R61). -/
def serialise : List Word → List (BitVec 8)
  | [] => []
  | w :: ws => bytesOfWord w ++ serialise ws

/-- The words of a byte stream; the bytes of an incomplete last word wait. -/
def deserialise : List (BitVec 8) → List Word
  | b0 :: b1 :: b2 :: b3 :: bs => wordOfBytes b0 b1 b2 b3 :: deserialise bs
  | _ => []

/-! ## Words as the opcode table numbers them -/

/-- The words of an instruction whose bits, numbered as spec/opcode_table.json numbers them, are `w` below
bit `nbits` and 0 above: the command word and the payload R97 gives it. -/
def tableWords (nch nbits w : Nat) : List Word :=
  let v := w % 2 ^ nbits
  let head := BitVec.ofNat 32 v
  head :: (List.range (payloadCount nch head)).map fun j => BitVec.ofNat 32 (v >>> (32 * (j + 1)))

/-- The instruction this decoder reads from the bits of a row of spec/opcode_table.json, laid out as bytes on
the transport and read back. -/
def decodeTableWord (nbits w : Nat) : Option Instr :=
  match decode Config.defaultNch (deserialise (serialise (tableWords Config.defaultNch nbits w))) with
  | .ok (i, _) => some i
  | .error _ => none

end Sys2Proof
end

