-- ==== Sys2Proof/Machine/Num.lean ====
section
/-!
DEFINITION. The arithmetic of `Num` (R11, R12): exact functions, each followed by the rounding hook of a number
format. A format is supplied as three functions; the table of primitives is made from it once, whatever it is.

A primitive reads the exact values of its operands, computes the exact result, and rounds it. The real functions are
computed for binary32 from a fixed-point value accurate far beyond the format's last place, which is then rounded
(notes/assumptions/4.md).
-/

namespace Sys2Proof

/-! ## Exact arithmetic over a field with infinities and `NaN` (R11) -/

namespace Extended

variable {K : Type}

/-- `finite(v)` of R11. -/
def isFinite : Extended K → Bool
  | .fin _ => true
  | .posInf => false
  | .negInf => false
  | .nan => false

/-- The finite value, where there is one. -/
def finite? : Extended K → Option K
  | .fin x => some x
  | .posInf => none
  | .negInf => none
  | .nan => none

variable [Field K] [LinearOrder K]

/-- The infinity with the sign of `q`; `NaN` where `q` is zero. -/
def infOfSign (q : K) : Extended K :=
  if 0 < q then .posInf else if q < 0 then .negInf else .nan

def neg : Extended K → Extended K
  | .fin q => .fin (-q)
  | .posInf => .negInf
  | .negInf => .posInf
  | .nan => .nan

def add : Extended K → Extended K → Extended K
  | .nan, _ => .nan
  | _, .nan => .nan
  | .fin p, .fin q => .fin (p + q)
  | .posInf, .negInf => .nan
  | .negInf, .posInf => .nan
  | .posInf, _ => .posInf
  | _, .posInf => .posInf
  | .negInf, _ => .negInf
  | _, .negInf => .negInf

def sub (a b : Extended K) : Extended K := add a (neg b)

/-- Products of an infinity: the sign of the product, `NaN` for `0 * Inf`. -/
def mul : Extended K → Extended K → Extended K
  | .nan, _ => .nan
  | _, .nan => .nan
  | .fin p, .fin q => .fin (p * q)
  | .fin p, .posInf => infOfSign p
  | .fin p, .negInf => infOfSign (-p)
  | .posInf, .fin q => infOfSign q
  | .negInf, .fin q => infOfSign (-q)
  | .posInf, .posInf => .posInf
  | .posInf, .negInf => .negInf
  | .negInf, .posInf => .negInf
  | .negInf, .negInf => .posInf

/-- `v / 0` is the infinity with the sign of `v`, `0 / 0` and `Inf / Inf` are `NaN` (R11); a finite value
over an infinity is 0 and an infinity over a finite value an infinity (IEEE 754, notes/assumptions/3.md). -/
def div : Extended K → Extended K → Extended K
  | .nan, _ => .nan
  | _, .nan => .nan
  | .fin p, .fin q => if q = 0 then infOfSign p else .fin (p / q)
  | .fin _, .posInf => .fin 0
  | .fin _, .negInf => .fin 0
  | .posInf, .fin q => if q < 0 then .negInf else .posInf
  | .negInf, .fin q => if q < 0 then .posInf else .negInf
  | .posInf, .posInf => .nan
  | .posInf, .negInf => .nan
  | .negInf, .posInf => .nan
  | .negInf, .negInf => .nan

/-- `<` of R11: false with a `NaN` operand. -/
def lt : Extended K → Extended K → Bool
  | .fin p, .fin q => decide (p < q)
  | .fin _, .posInf => true
  | .negInf, .fin _ => true
  | .negInf, .posInf => true
  | .fin _, .negInf => false
  | .fin _, .nan => false
  | .posInf, _ => false
  | .negInf, .negInf => false
  | .negInf, .nan => false
  | .nan, _ => false

/-- `<=` of R11: false with a `NaN` operand. -/
def le : Extended K → Extended K → Bool
  | .fin p, .fin q => decide (p ≤ q)
  | .fin _, .posInf => true
  | .negInf, .fin _ => true
  | .negInf, .posInf => true
  | .posInf, .posInf => true
  | .negInf, .negInf => true
  | .fin _, .negInf => false
  | .fin _, .nan => false
  | .posInf, .fin _ => false
  | .posInf, .negInf => false
  | .posInf, .nan => false
  | .negInf, .nan => false
  | .nan, _ => false

end Extended

/-! ## Fixed-point values of the real functions

A fixed-point value is an integer count of `2^-fixBits`. -/

namespace Fix

/-- The number of fraction bits of a fixed-point value. -/
def bits : Nat := 384

def one : Int := 2 ^ bits

/-- The first `n` terms of `t/i - t/(k2*(i+2)) + t/(k2^2*(i+4)) - ...` -/
def arctanTerms (k2 : Int) : Nat → Int → Int → Int → Int
  | 0, _, _, acc => acc
  | n + 1, t, i, acc => arctanTerms k2 n (-(t / k2)) (i + 2) (acc + t / i)

/-- `arctan(1/k)`. -/
def arctanInv (k : Int) : Int := arctanTerms (k * k) 200 (one / k) 1 0

/-- pi, by Machin's formula `pi/4 = 4 arctan(1/5) - arctan(1/239)`. -/
def pi : Int := 4 * (4 * arctanInv 5 - arctanInv 239)

/-- The first `n` terms of `t/i + t*z2/(i+2) + t*z2^2/(i+4) + ...` -/
def artanhTerms (z2 : Int) : Nat → Int → Int → Int → Int
  | 0, _, _, acc => acc
  | n + 1, t, i, acc => artanhTerms z2 n (t * z2 / one) (i + 2) (acc + t / i)

/-- `ln(a/b)` for `0 < a`, `0 < b` with `1/2 ≤ a/b ≤ 2`, as `2 artanh((a-b)/(a+b))`. -/
def lnRatio (a b : Int) : Int :=
  let z := (a - b) * one / (a + b)
  2 * artanhTerms (z * z / one) 130 z 1 0

def ln2 : Int := lnRatio 2 1

/-- `ln 10 = 3 ln 2 + ln(10/8)`. -/
def ln10 : Int := 3 * ln2 + lnRatio 10 8

/-- The terms `r^n/n!` summed into (cosine, sine): `n` counts the terms still to come, `i` their index. -/
def sinCosTerms (r : Int) : Nat → Int → Int → Int → Int → Int × Int
  | 0, _, _, c, s => (c, s)
  | n + 1, i, t, c, s =>
    let u := t * r / one / (i + 1)
    sinCosTerms r n (i + 2) (-(u * r / one / (i + 2))) (c + t) (s + u)

/-- `(cos r, sin r)` for a small angle. -/
def sinCosSmall (r : Int) : Int × Int := sinCosTerms r 45 0 one 0 0

/-- `(cos a, sin a)` for any angle, by reduction to within pi/4 of a multiple of pi/2. -/
def sinCos (a : Int) : Int × Int :=
  let k := (4 * a + pi) / (2 * pi)
  let p := sinCosSmall ((2 * a - k * pi) / 2)
  let m := k % 4
  if m = 0 then p else if m = 1 then (-p.2, p.1) else if m = 2 then (-p.1, -p.2) else (p.2, -p.1)

/-- The first `n` terms of `t + t*r/i + t*r^2/(i*(i+1)) + ...` -/
def expTerms (r : Int) : Nat → Int → Int → Int → Int
  | 0, _, _, acc => acc
  | n + 1, i, t, acc => expTerms r n (i + 1) (t * r / one / i) (acc + t)

/-- The integer square root, by its bits from `2^(n-1)` down. -/
def isqrtBits (x : Nat) : Nat → Nat → Nat
  | 0, r => r
  | n + 1, r => isqrtBits x n (if (r + 2 ^ n) * (r + 2 ^ n) ≤ x then r + 2 ^ n else r)

/-- The greatest `r` with `r * r ≤ x`. -/
def isqrt (x : Nat) : Nat := isqrtBits x (Nat.log2 x / 2 + 1) 0

/-- The fixed-point value of a rational. -/
def ofRat (q : Rat) : Int := q.num * one / q.den

/-- The rational `n / 2^bits`. -/
def toRat (n : Int) : Rat := mkRat n (2 ^ bits)

/-- `q * 2^e`. -/
def scale (q : Rat) (e : Int) : Rat :=
  if 0 ≤ e then mkRat (q.num * 2 ^ e.toNat) q.den else mkRat q.num (q.den * 2 ^ (-e).toNat)

/-- `sqrt q` for `0 ≤ q`: exact where the root of the scaled operand is exact, otherwise a value strictly
between the two neighbouring fixed-point values, so that no rounding boundary lies between it and the
root. -/
def sqrt (q : Rat) : Rat :=
  let x := q.num.toNat * q.den * 2 ^ (2 * bits)
  let r := isqrt x
  if r * r = x then mkRat r (q.den * 2 ^ bits) else mkRat (2 * r + 1) (q.den * 2 ^ (bits + 1))

/-- `log10 q` for `0 < q`. -/
def log10 (q : Rat) : Rat :=
  let a := q.num.toNat
  let e : Int := Nat.log2 a - Nat.log2 q.den
  let m := scale q (-e)
  mkRat (e * ln2 + lnRatio m.num m.den) ln10.toNat

/-- `10^q`; beyond the limits the result is any value that is as far out of every format's range. -/
def pow10 (q : Rat) : Rat :=
  if 100 < q then 10 ^ 100
  else if q < -100 then mkRat 1 (10 ^ 100)
  else
    let y := q.num * ln10 / q.den
    let k := y / ln2
    scale (toRat (expTerms (y - k * ln2) 90 1 one 0)) k

/-- The value of a real function of R11 at a rational of its domain. -/
def eval : RealFn → Rat → Rat
  | .piMul, q => q * toRat pi
  | .sqrt, q => sqrt q
  | .sin, q => toRat (sinCos (ofRat q)).2
  | .cos, q => toRat (sinCos (ofRat q)).1
  | .tan, q => let p := sinCos (ofRat q); if p.1 < 0 then mkRat (-p.2) (-p.1).toNat else mkRat p.2 p.1.toNat
  | .log10, q => log10 q
  | .pow10, q => pow10 q

end Fix

/-! ## The binary32 format (R12, R61) -/

namespace Binary32

/-- The exact value of a binary32 pattern: sign bit 31, exponent bits 30:23, fraction bits 22:0 (R61). -/
def value (w : Word) : Ext :=
  let neg := w.getLsbD 31
  let e := (w.extractLsb' 23 8).toNat
  let f := (w.extractLsb' 0 23).toNat
  if e = 255 then
    if f = 0 then (if neg then .negInf else .posInf) else .nan
  else
    let m : Int := if e = 0 then f else 2 ^ 23 + f
    let m := if neg then -m else m
    let x := if e = 0 then 1 else e
    .fin (if 150 ≤ x then ((m * 2 ^ (x - 150) : Int) : Rat) else mkRat m (2 ^ (150 - x)))

/-- `a / b` rounded to the nearest natural, ties to even. -/
def divNearestEven (a b : Nat) : Nat :=
  let n := a / b
  let r := a % b
  if b < 2 * r then n + 1 else if 2 * r = b ∧ n % 2 = 1 then n + 1 else n

/-- The magnitude bits (exponent and fraction) of `a / b` rounded to nearest even with overflow to
infinity, for `0 < a`, `0 < b`. The last place is `2^(t-149)`, with `t` never below 0. -/
def magnitude (a b : Nat) : Nat :=
  let e0 : Int := Nat.log2 a - Nat.log2 b
  let fits (e : Int) : Bool := if 0 ≤ e then decide (b * 2 ^ e.toNat ≤ a) else decide (b ≤ a * 2 ^ (-e).toNat)
  let e := if fits e0 then e0 else e0 - 1
  let t := (e + 126).toNat
  let n := if 149 ≤ t then divNearestEven a (b * 2 ^ (t - 149)) else divNearestEven (a * 2 ^ (149 - t)) b
  min (t * 2 ^ 23 + n) 0x7F800000

/-- Round to nearest even (R12). The pattern of zero is 0x00000000 and that of `NaN` 0x7FC00000
(notes/assumptions/3.md). -/
def rnd : Ext → Word
  | .fin q =>
    let m := if q.num = 0 then 0 else magnitude q.num.natAbs q.den
    if m = 0 then 0x00000000#32 else BitVec.ofNat 32 (if q.num < 0 then 0x80000000 + m else m)
  | .posInf => 0x7F800000#32
  | .negInf => 0xFF800000#32
  | .nan => 0x7FC00000#32

end Binary32

/-! ## The table of primitives (R11, R12)

The formulas of R151 to R156, R181 to R184, R203 to R208 and R214 to R217 are written once over this table, so that the
machine reads them in its number format and the reference semantics reads them with `rnd` the identity. -/

/-- A table of the numeric primitives of R11 over a carrier. -/
structure Arith (α : Type) where
  ofRat : Rat → α
  /-- `PI * x` with `PI` the real number pi (R13): one product, one rounding (notes/assumptions/11.md) -/
  piMul : α → α
  add : α → α → α
  sub : α → α → α
  mul : α → α → α
  div : α → α → α
  sqrt : α → α
  sin : α → α
  cos : α → α
  tan : α → α
  log10 : α → α
  pow10 : α → α
  finite : α → Bool
  isNan : α → Bool
  lt : α → α → Bool
  le : α → α → Bool

/-- `ofNat` of R11. -/
def Arith.ofNat {α : Type} (A : Arith α) (n : Nat) : α := A.ofRat (n : Rat)

/-- A number format (R12): the exact value of what it stores, the rounding hook `rnd`, and `rnd` of a real function at
a point of its domain. -/
structure NumberFormat (K W : Type) where
  value : W → Extended K
  rnd : Extended K → W
  rndReal : RealFn → K → W

namespace NumberFormat

variable {K W : Type} (F : NumberFormat K W)

/-- `PI * x` for the real number `PI` (R13). -/
def piMul (a : W) : W :=
  match F.value a with
  | .fin x => F.rndReal .piMul x
  | .posInf => F.rnd .posInf
  | .negInf => F.rnd .negInf
  | .nan => F.rnd .nan

/-- `sin`, `cos` or `tan`: `NaN` at the infinities (IEEE 754, notes/assumptions/3.md). -/
def trig (f : RealFn) (a : W) : W :=
  match F.value a with
  | .fin x => F.rndReal f x
  | .posInf => F.rnd .nan
  | .negInf => F.rnd .nan
  | .nan => F.rnd .nan

variable [Field K] [LinearOrder K]

/-- `sqrt v` is `NaN` for `v < 0` (R11); `sqrt(+Inf)` is `+Inf` (IEEE 754, notes/assumptions/3.md). -/
def sqrt (a : W) : W :=
  match F.value a with
  | .fin x => if x < 0 then F.rnd .nan else F.rndReal .sqrt x
  | .posInf => F.rnd .posInf
  | .negInf => F.rnd .nan
  | .nan => F.rnd .nan

/-- `log10 v` is `NaN` for `v < 0`, `-Inf` at 0, `+Inf` at `+Inf` (R11). -/
def log10 (a : W) : W :=
  match F.value a with
  | .fin x => if x < 0 then F.rnd .nan else if x = 0 then F.rnd .negInf else F.rndReal .log10 x
  | .posInf => F.rnd .posInf
  | .negInf => F.rnd .nan
  | .nan => F.rnd .nan

/-- `pow10(v) = 10^v`; at the infinities it is `+Inf` and 0 (IEEE 754, notes/assumptions/3.md). -/
def pow10 (a : W) : W :=
  match F.value a with
  | .fin x => F.rndReal .pow10 x
  | .posInf => F.rnd .posInf
  | .negInf => F.rnd (.fin 0)
  | .nan => F.rnd .nan

/-- The table of a number format: the exact function, then `rnd` (R12); a comparison rounds nothing (R11). -/
def arith : Arith W where
  ofRat q := F.rnd (.fin (q : K))
  piMul := F.piMul
  add a b := F.rnd (Extended.add (F.value a) (F.value b))
  sub a b := F.rnd (Extended.sub (F.value a) (F.value b))
  mul a b := F.rnd (Extended.mul (F.value a) (F.value b))
  div a b := F.rnd (Extended.div (F.value a) (F.value b))
  sqrt := F.sqrt
  sin := F.trig .sin
  cos := F.trig .cos
  tan := F.trig .tan
  log10 := F.log10
  pow10 := F.pow10
  finite a := (F.value a).isFinite
  isNan a := decide (F.value a = .nan)
  lt a b := Extended.lt (F.value a) (F.value b)
  le a b := Extended.le (F.value a) (F.value b)

end NumberFormat

/-! ## The number formats a configuration can name -/

/-- The entry of an operand in a supplied table, `d` of it where the table has none. -/
def tableAt {κ ν : Type} [BEq κ] (entries : List (κ × ν)) (d : κ → ν) (k : κ) : ν := (entries.lookup k).getD (d k)

/-- The format of `NUM` (R7, R12). -/
def NumFormat.format : NumFormat → NumberFormat Rat Word
  | .binary32 =>
    { value := Binary32.value, rnd := Binary32.rnd, rndReal := fun f q => Binary32.rnd (.fin (Fix.eval f q)) }
  | .other id t =>
    { value := tableAt t.value (Config.otherValue id)
      rnd := tableAt t.rnd (Config.otherRnd id)
      rndReal := fun f q => tableAt t.real (fun p => Config.otherReal id p.1 p.2) (f, q) }

namespace Numeric

variable (F : NumFormat)

/-- The table of a format named by the configuration. -/
def arith : Arith Word := F.format.arith

/-- The exact value a word stores. -/
def value (w : Word) : Ext := F.format.value w

/-- The rounding hook `rnd` (R12), to the word of the rounded value. -/
def rnd (e : Ext) : Word := F.format.rnd e

def ofRat (q : Rat) : Word := rnd F (.fin q)
def add (a b : Word) : Word := rnd F (Extended.add (value F a) (value F b))
def sub (a b : Word) : Word := rnd F (Extended.sub (value F a) (value F b))
def mul (a b : Word) : Word := rnd F (Extended.mul (value F a) (value F b))
def div (a b : Word) : Word := rnd F (Extended.div (value F a) (value F b))
def log10 (a : Word) : Word := F.format.log10 a
def finite (w : Word) : Bool := (value F w).isFinite
def isNan (w : Word) : Bool := decide (value F w = .nan)
def lt (a b : Word) : Bool := Extended.lt (value F a) (value F b)
def le (a b : Word) : Bool := Extended.le (value F a) (value F b)

end Numeric

end Sys2Proof
end

