-- ==== Sys2Proof/Machine/State.lean ====
section
/-!
DEFINITION. The state of SEQ-CORE (spec/10_state.md R20 to R44), the reasons a step stops, and reset.

Every piece of state of R20 to R41 has a field. The fields `cfg`, `turn`, `sched`, `freeCtr` and the
in-progress slot and response log of a port are the model's own: they hold the parameters of R7, the order of
the agents' steps (R66), and what a port's agent has begun and answered (R21, R98).
-/

namespace Sys2Proof.Machine

/-! ## Agents, faults of the block, responses -/

/-- The three command streams and their agents (R22): A the audio-callback context, B the analysis and
render context, H the host parameter writer. -/
inductive Port where
  | A
  | B
  | H
  deriving DecidableEq, Repr

/-- The port number recorded in `ERR` (R26). -/
def Port.code : Port → BitVec 2
  | .A => 0
  | .B => 1
  | .H => 2

/-- The causes of the block's refusal fault (R271). A refusal fault is a next state (R272), not a stop. -/
inductive Cause where
  | illegalCommand
  | wrongPort
  | badOperand
  | notPrepared
  | unwritten
  deriving DecidableEq, Repr

/-- The cause codes of R271. -/
def Cause.code : Cause → BitVec 4
  | .illegalCommand => 1
  | .wrongPort => 2
  | .badOperand => 3
  | .notPrepared => 4
  | .unwritten => 5

/-- The statuses of a response (R98). -/
inductive Status where
  | ok
  | empty
  | dropped
  | fault
  deriving DecidableEq, Repr

def Status.code : Status → BitVec 4
  | .ok => 0x0
  | .empty => 0x1
  | .dropped => 0x2
  | .fault => 0xF

/-- A response (R98): the response word's status and value, and the payload words. -/
structure Response where
  status : Status
  value : BitVec 28
  payload : List Word
  deriving DecidableEq, Repr

/-- The response word: bits 31:28 `status`, bits 27:0 `value` (R98). -/
def Response.word (r : Response) : Word := r.status.code ++ r.value

/-- `ERR` (R41). -/
structure Err where
  valid : Bool
  cause : BitVec 4
  port : BitVec 2
  word : Word
  deriving DecidableEq, Repr

/-! ## Filter chain -/

/-- One value per stage of the chain in its fixed order (R30): `lc0` to `lc3` are `stage[0..3]`, `pk` is
`stage[4]`, `hc0` to `hc3` are `stage[5..8]`. -/
structure Nine (α : Type) where
  lc0 : α
  lc1 : α
  lc2 : α
  lc3 : α
  pk : α
  hc0 : α
  hc1 : α
  hc2 : α
  hc3 : α
  deriving DecidableEq, Repr

/-- The normalised coefficients of one biquad (R30, R201). -/
structure Biquad (α : Type) where
  b0 : α
  b1 : α
  b2 : α
  a1 : α
  a2 : α
  deriving DecidableEq, Repr

/-- One stage: its coefficients and its bypass flag (R30). -/
structure Stage (α : Type) where
  co : Biquad α
  byp : Bool
  deriving DecidableEq, Repr

/-- A CoeffSet (R30). -/
structure CoeffSet (α : Type) where
  stage : Nine (Stage α)
  gbypLC : Bool
  gbypPK : Bool
  gbypHC : Bool
  deriving DecidableEq, Repr

/-- The state of one stage on one channel (R34). -/
structure StageState (α : Type) where
  s1 : α
  s2 : α
  deriving DecidableEq, Repr

/-- ChainSettings (R29). -/
structure ChainSettings (α : Type) where
  peakFreqHz : α
  peakGainDb : α
  peakQuality : α
  lowCutFreqHz : α
  highCutFreqHz : α
  lowCutSlopeOrder : BitVec 3
  highCutSlopeOrder : BitVec 3
  peakBypassed : Bool
  lowCutBypassed : Bool
  highCutBypassed : Bool
  analyzerEnabled : Bool
  deriving DecidableEq, Repr

/-! ## Analysis pipeline -/

/-- A point of a polyline (R39). -/
structure Point (α : Type) where
  x : α
  y : α
  deriving DecidableEq, Repr

/-- The FIFO kinds of R36: sample, spectrum and curve. -/
inductive FifoKind where
  | sf
  | mf
  | cf
  deriving DecidableEq, Repr

/-- An element with the FIFO it belongs to (R36, R122). The count `np` of a polyline is its number of points. -/
inductive Item where
  | samples (xs : List Word)
  | spectrum (db : List Word)
  | curve (pts : List (Point Word))
  deriving DecidableEq, Repr

/-- A FIFO instance (R35) of elements `α`. -/
structure Fifo (α : Type) where
  prepared : Bool
  /-- `C` -/
  cap : Nat
  shape : Nat
  wr : Nat
  rd : Nat
  slots : List α
  ovf : Nat
  deriving DecidableEq, Repr

/-- The transform orders (R150, R159). -/
inductive Order where
  | o11
  | o12
  | o13
  deriving DecidableEq, Repr

/-- The number of an order. -/
def Order.log2 : Order → Nat
  | .o11 => 11
  | .o12 => 12
  | .o13 => 13

/-- `N = 2^ORD` (R37). -/
def Order.size (o : Order) : Nat := 2 ^ o.log2

/-- The state each channel has of its own (R34, R36, R37, R39). `win` is `WIN[ch]`, empty while `ord` holds no
value; `curve` is `CURVE[ch]`. -/
structure Channel where
  sf : Fifo (List Word)
  mf : Fifo (List Word)
  cf : Fifo (List (Point Word))
  ord : Option Order
  win : List Word
  curve : List (Point Word)
  z : Nine (StageState Word)
  deriving DecidableEq, Repr

/-! ## Registers -/

/-- The parameter registers 0x00 to 0x08 (R24), `none` while unwritten. -/
structure Params where
  peakFreq : Option Word
  peakGain : Option Word
  peakQ : Option Word
  loCutFreq : Option Word
  hiCutFreq : Option Word
  loCutSlope : Option (BitVec 3)
  hiCutSlope : Option (BitVec 3)
  bypass : Option (BitVec 3)
  anEn : Option (BitVec 1)
  deriving DecidableEq, Repr

/-! ## Ports -/

/-- The operands a `POLL` in progress carries, with the floor and the bin width it computed at its start (R250). -/
structure PollArgs where
  ch : Nat
  bx : Word
  bt : Word
  bw : Word
  bh : Word
  binWidthHz : Word
  floorDb : Word
  deriving DecidableEq, Repr

/-- What is left of a command that has begun: the next of its numbered micro-steps (R66) and its operands. -/
inductive Micro where
  /-- step 2 of `FPUSH` (R125): the element copy -/
  | pushCopy (ch : Nat) (item : Item)
  /-- step 3 of `FPUSH`: the store of the write cursor -/
  | pushPublish (ch : Nat) (kind : FifoKind)
  /-- step 2 of `FPULL` (R126): the element copy -/
  | pullCopy (ch : Nat) (kind : FifoKind)
  /-- step 3 of `FPULL`: the store of the read cursor -/
  | pullFree (ch : Nat) (item : Item)
  /-- step 2 of the pull of `RFEED` (R142) -/
  | feedCopy (ch : Nat)
  /-- step 3 of the pull of `RFEED`, and the shift -/
  | feedFree (ch : Nat) (blk : List Word)
  /-- what follows the take of `PROC` (R214, R70) -/
  | procRun (n : Nat) (samples : List Word)
  /-- step 2 of `TICK` (R248) -/
  | tickLatch (fs : Word)
  /-- step 3 of `TICK` -/
  | tickDesign (fs : Word)
  /-- step 4 of `TICK` -/
  | tickPost
  /-- phase 1 of `POLL` (R250): `n` blocks left, the next an `RFEED` -/
  | pollFeed (a : PollArgs) (n : Nat)
  /-- phase 1 of `POLL`: the `SPEC` after an `RFEED`, `n` blocks left after it -/
  | pollSpec (a : PollArgs) (n : Nat)
  /-- phase 2 of `POLL`: `n` spectra left; then phase 3 -/
  | pollCurve (a : PollArgs) (n : Nat)
  deriving DecidableEq, Repr

/-- A port (R21): the words of its stream that are not consumed yet, its command index `pc_X`, the command in
progress, and the responses it has emitted, newest first. -/
structure PortState where
  stream : List Word
  pc : Nat
  busy : Option Micro
  out : List Response
  deriving DecidableEq, Repr

structure Ports where
  a : PortState
  b : PortState
  h : PortState
  deriving DecidableEq, Repr

/-- Whose step it is, and whether a command that begins is run whole or cut at its micro-steps (R66). -/
structure Turn where
  port : Port
  split : Bool
  deriving DecidableEq, Repr

/-- What the environment does next: gives an agent a step (R66), sends words on a port (R21), or resets the
block (R300). -/
inductive Event where
  | turn (p : Port) (split : Bool)
  | send (p : Port) (ws : List Word)
  | reset
  deriving DecidableEq, Repr

/-! ## The state -/

structure State where
  /-- the parameters of R7 but `NCH`, in the ranges of `Config.Ok`; no step changes them -/
  cfg : Config
  /-- the parameter registers (R24) -/
  params : Params
  /-- FLOOR_DB (R25) -/
  floorDb : Word
  /-- STRIDE (R25) -/
  stride : BitVec 13
  /-- BLKLEN (R25), `none` while unwritten -/
  blkLen : Option (BitVec 14)
  /-- `PCHG` (R27) -/
  pchg : Bool
  /-- `SET` (R29) -/
  settings : Option (ChainSettings Word)
  /-- `NEWC` (R31) -/
  newc : Option (CoeffSet Word)
  /-- `ACT` (R32) -/
  act : CoeffSet Word
  /-- `MBOX` (R33) -/
  mbox : Option (CoeffSet Word)
  /-- the channels; `NCH` is their number, 1 to 16 (`Config.Ok`) -/
  chans : List Channel
  /-- `ERR` (R41) -/
  err : Err
  /-- the three ports (R21) -/
  ports : Ports
  /-- the model's own: the turn in progress -/
  turn : Turn
  /-- the model's own: the environment's next events, in order (R66) -/
  sched : List Event
  /-- the model's own: how many free CoeffSets have been drawn (notes/assumptions/5.md) -/
  freeCtr : Nat
  deriving DecidableEq, Repr

/-- `NCH` (R7). -/
def State.nch (s : State) : Nat := s.chans.length

/-! ## Why a step stops -/

/-- The machine stops. Not the block's refusal fault, which is a next state (R272). -/
inductive Fault where
  /-- `step` raises it when the environment gives no further event: the run is over (R21, R253). Safe: no
  behaviour of the block is cut off, and a schedule can always be longer. -/
  | endOfRun
  deriving DecidableEq, Repr

/-- The model defines no execution. -/
inductive Refusal where
  /-- raised by an arm of `exec` that has no meaning yet, with its mnemonic; safe -/
  | notModelled (mnemonic : String)
  /-- raised by `FPREP SF[ch]` between the steps of an `FPUSH SF[ch]` of agent A: the result is undefined
  (R311, U1); safe -/
  | prepDuringPush
  deriving DecidableEq, Repr

/-! ## Reset (R44, R300) -/

/-- The coefficients of an identity stage (R30, R207) from 1 and 0. -/
def Biquad.identity {α : Type} (one zero : α) : Biquad α :=
  { b0 := one, b1 := zero, b2 := zero, a1 := zero, a2 := zero }

/-- The same value for every stage. -/
def Nine.const {α : Type} (a : α) : Nine α :=
  { lc0 := a, lc1 := a, lc2 := a, lc3 := a, pk := a, hc0 := a, hc1 := a, hc2 := a, hc3 := a }

/-- The words of 0, 1 and -48 at reset (R30, R44, spec/95_test_vectors.md). -/
def resetZero : NumFormat → Word
  | .binary32 => 0x00000000#32
  | .other id t => (NumFormat.other id t).format.rnd (.fin 0)

def resetOne : NumFormat → Word
  | .binary32 => 0x3F800000#32
  | .other id t => (NumFormat.other id t).format.rnd (.fin 1)

def resetFloor : NumFormat → Word
  | .binary32 => 0xC2400000#32
  | .other id t => (NumFormat.other id t).format.rnd (.fin (-48))

/-- `IDENT` (R30). -/
def CoeffSet.ident (F : NumFormat) : CoeffSet Word :=
  { stage := Nine.const { co := Biquad.identity (resetOne F) (resetZero F), byp := true }
    gbypLC := true, gbypPK := true, gbypHC := true }

/-- A FIFO that has not been prepared (R44). -/
def Fifo.unprepared (α : Type) : Fifo α :=
  { prepared := false, cap := 0, shape := 0, wr := 0, rd := 0, slots := [], ovf := 0 }

/-- A channel after reset (R44). -/
def Channel.afterReset (F : NumFormat) : Channel :=
  { sf := Fifo.unprepared _, mf := Fifo.unprepared _, cf := Fifo.unprepared _, ord := none, win := [], curve := []
    z := Nine.const { s1 := resetZero F, s2 := resetZero F } }

/-- The parameter registers after reset: unwritten (R44). -/
def Params.unwritten : Params :=
  { peakFreq := none, peakGain := none, peakQ := none, loCutFreq := none, hiCutFreq := none, loCutSlope := none
    hiCutSlope := none, bypass := none, anEn := none }

/-- A port after reset: an empty stream, index 0, nothing in progress (R44, R300). -/
def PortState.idle : PortState := { stream := [], pc := 0, busy := none, out := [] }

/-- The state after reset of an implementation with the given parameters (R44, R300). -/
def State.resetFor (cfg : Config) (nch : Nat) : State :=
  { cfg := cfg
    params := Params.unwritten
    floorDb := resetFloor cfg.num
    stride := 2
    blkLen := none
    pchg := false
    settings := none
    newc := none
    act := CoeffSet.ident cfg.num
    mbox := none
    chans := List.replicate nch (Channel.afterReset cfg.num)
    err := { valid := false, cause := 0, port := 0, word := 0 }
    ports := { a := PortState.idle, b := PortState.idle, h := PortState.idle }
    turn := { port := .A, split := false }
    sched := []
    freeCtr := 0 }

/-- The machine right after reset, with the default parameters (notes/assumptions/2.md). -/
def State.reset : State := State.resetFor Config.default Config.defaultNch

end Sys2Proof.Machine
end

