-- ==== Sys2Proof/Machine/Ops.lean ====
section
/-!
DEFINITION. The shared operations: ports and responses (R21, R98), the refusal fault (R272, R275), channels,
and the ring buffer (R35, R120 to R131) with its push and pull as the numbered micro-steps of R125 and R126.
-/

namespace Sys2Proof.Machine

/-- What a meaning answers. -/
abbrev Result := Host.Outcome State Fault Refusal

/-! ## Ports -/

def Ports.get (ps : Ports) : Port → PortState
  | .A => ps.a
  | .B => ps.b
  | .H => ps.h

def Ports.set (ps : Ports) (p : Port) (v : PortState) : Ports :=
  match p with
  | .A => { ps with a := v }
  | .B => { ps with b := v }
  | .H => { ps with h := v }

/-- The port whose step it is (R66). -/
def State.cur (s : State) : Port := s.turn.port

def State.port (s : State) (p : Port) : PortState := s.ports.get p

def State.setPort (s : State) (p : Port) (v : PortState) : State := { s with ports := s.ports.set p v }

/-- The current port's stream, its first words consumed. -/
def State.setStream (s : State) (ws : List Word) : State :=
  s.setPort s.cur { s.port s.cur with stream := ws }

/-- The current port's command goes on with the micro-step `m` in a later step (R66). -/
def State.setBusy (s : State) (m : Micro) : State :=
  s.setPort s.cur { s.port s.cur with busy := some m }

/-- Emit the one response of the current port's command and go on to its next (R21, R98). -/
def State.finish (s : State) (r : Response) : State :=
  let p := s.port s.cur
  s.setPort s.cur { p with pc := p.pc + 1, busy := none, out := r :: p.out }

/-- A response with a value and no payload (R98). -/
def respond (st : Status) (n : Nat) : Response := { status := st, value := BitVec.ofNat 28 n, payload := [] }

/-- A response with a payload (R99). -/
def respondWith (n : Nat) (payload : List Word) : Response :=
  { status := .ok, value := BitVec.ofNat 28 n, payload := payload }

/-! ## Refusal faults -/

/-- `ERR` latches the first fault after reset (R275). -/
def State.latchErr (s : State) (c : Cause) (w : Word) : State :=
  if s.err.valid then s
  else { s with err := { valid := true, cause := c.code, port := s.cur.code, word := w } }

/-- `raise` (R272): no state changes but `ERR`, the response is `FAULT` with the cause code, and the port goes
on. `w` is the refused command word. -/
def State.raise (s : State) (c : Cause) (w : Word) : State :=
  (s.latchErr c w).finish (respond .fault c.code.toNat)

/-- The first check that fires (R273). -/
def firstFault : List (Bool × Cause) → Option Cause
  | [] => none
  | (b, c) :: rest => if b then some c else firstFault rest

/-- Run a command behind its checks, in their order (R272, R273). -/
def guarded (s : State) (w : Word) (checks : List (Bool × Cause)) (body : Result) : Result :=
  match firstFault checks with
  | some c => .next (s.raise c w)
  | none => body

/-! ## Channels -/

/-- Channel `ch`; the default is never read for `ch < NCH`. -/
def State.chan (s : State) (ch : Nat) : Channel := s.chans.getD ch (Channel.afterReset s.cfg.num)

def State.setChan (s : State) (ch : Nat) (c : Channel) : State := { s with chans := s.chans.set ch c }

/-! ## The ring buffer -/

/-- `sat28` (R10). -/
def sat28 (n : Nat) : Nat := min n (2 ^ 28 - 1)

namespace Fifo

variable {α : Type}

/-- The readable count (R35, R121). -/
def readable (q : Fifo α) : Nat := q.wr - q.rd

/-- The producer's test at its load of the read cursor (R125). -/
def full (q : Fifo α) : Bool := decide (q.cap ≤ q.readable)

/-- Step 1 of a push on a full FIFO: the item is dropped and counted (R125). -/
def countDrop (q : Fifo α) : Fifo α := { q with ovf := sat28 (q.ovf + 1) }

/-- Step 2 of a push: the element copy into slot `wr mod C` (R125). -/
def copyIn (q : Fifo α) (x : α) : Fifo α := { q with slots := q.slots.set (q.wr % q.cap) x }

/-- Step 3 of a push: the store of the write cursor (R125). -/
def publish (q : Fifo α) : Fifo α := { q with wr := q.wr + 1 }

/-- Step 2 of a pull: the element copy out of slot `rd mod C` (R126). `d` is never read on a FIFO with
something to pull. -/
def front (q : Fifo α) (d : α) : α := q.slots.getD (q.rd % q.cap) d

/-- Step 3 of a pull: the store of the read cursor (R126). -/
def free (q : Fifo α) : Fifo α := { q with rd := q.rd + 1 }

/-- A whole push (R125, R76). -/
def push (q : Fifo α) (x : α) : Fifo α := if q.full then q.countDrop else (q.copyIn x).publish

/-- `prepare(capacity)` with the shape and the zero element of the FIFO's kind (R124). -/
def prepare (cap shape : Nat) (zero : α) : Fifo α :=
  { prepared := true, cap := cap, shape := shape, wr := 0, rd := 0, slots := List.replicate cap zero, ovf := 0 }

/-- Everything of a FIFO but its slots. -/
def view (q : Fifo α) : Fifo Unit :=
  { prepared := q.prepared, cap := q.cap, shape := q.shape, wr := q.wr, rd := q.rd, slots := [], ovf := q.ovf }

end Fifo

/-- The kind of the FIFO an element belongs to (R36). -/
def Item.kind : Item → FifoKind
  | .samples _ => .sf
  | .spectrum _ => .mf
  | .curve _ => .cf

namespace Channel

/-- The FIFO of a kind, without its slots. -/
def fifo (c : Channel) : FifoKind → Fifo Unit
  | .sf => c.sf.view
  | .mf => c.mf.view
  | .cf => c.cf.view

def countDrop (c : Channel) : FifoKind → Channel
  | .sf => { c with sf := c.sf.countDrop }
  | .mf => { c with mf := c.mf.countDrop }
  | .cf => { c with cf := c.cf.countDrop }

def copyIn (c : Channel) : Item → Channel
  | .samples xs => { c with sf := c.sf.copyIn xs }
  | .spectrum db => { c with mf := c.mf.copyIn db }
  | .curve pts => { c with cf := c.cf.copyIn pts }

def publish (c : Channel) : FifoKind → Channel
  | .sf => { c with sf := c.sf.publish }
  | .mf => { c with mf := c.mf.publish }
  | .cf => { c with cf := c.cf.publish }

def front (c : Channel) : FifoKind → Item
  | .sf => .samples (c.sf.front [])
  | .mf => .spectrum (c.mf.front [])
  | .cf => .curve (c.cf.front [])

def free (c : Channel) : FifoKind → Channel
  | .sf => { c with sf := c.sf.free }
  | .mf => { c with mf := c.mf.free }
  | .cf => { c with cf := c.cf.free }

/-- A whole push of an element (R76). -/
def push (c : Channel) (x : Item) : Channel :=
  if (c.fifo x.kind).full then c.countDrop x.kind else (c.copyIn x).publish x.kind

end Channel

/-- The status a push answers with (R125). -/
def pushStatus (c : Channel) (k : FifoKind) : Status := if (c.fifo k).full then .dropped else .ok

/-- Apply a function to channel `ch`. -/
def State.modChan (s : State) (ch : Nat) (f : Channel → Channel) : State := s.setChan ch (f (s.chan ch))

end Sys2Proof.Machine
end

