-- ==== Sys2Proof/Machine/Flags.lean ====
section
/-!
DEFINITION. The flags and the registers composed from them. R28: the block has no arithmetic condition codes;
its flags are `PCHG` (R27), the "holds a value" bits, the bypass flags and `ERR.valid`.
-/

namespace Sys2Proof.Machine

/-- A word with bit `i` equal to `b`, other bits zero. -/
def bitAt (i : Nat) (b : Bool) : Word := if b then 1#32 <<< i else 0#32

/-- A parameter write sets `PCHG` (R27). -/
def State.setPchg (s : State) : State := { s with pchg := true }

/-- The clear of a test-and-clear of `PCHG` (R63, R73). -/
def State.clearPchg (s : State) : State := { s with pchg := false }

/-- STATUS, register 0x20 (R26). -/
def State.statusWord (s : State) : Word :=
  bitAt 0 s.pchg ||| bitAt 1 s.mbox.isSome ||| bitAt 2 s.settings.isSome ||| bitAt 3 s.newc.isSome |||
    bitAt 4 s.err.valid

/-- ERR_CAUSE, register 0x21 (R26): bit 31 `valid`, bits 5:4 `port`, bits 3:0 `cause`. -/
def State.errCauseWord (s : State) : Word :=
  bitAt 31 s.err.valid ||| (0#26 ++ s.err.port ++ s.err.cause : BitVec 32)

/-- ERR_WORD, register 0x22 (R26): 0 while `ERR.valid` is 0. -/
def State.errWordWord (s : State) : Word := if s.err.valid then s.err.word else 0

/-- The `flags` word of RDCOEF (R213): bit `j` is `stage[j].byp`, bits 9, 10, 11 the group flags. -/
def CoeffSet.flags (c : CoeffSet Word) : Word :=
  bitAt 0 c.stage.lc0.byp ||| bitAt 1 c.stage.lc1.byp ||| bitAt 2 c.stage.lc2.byp ||| bitAt 3 c.stage.lc3.byp |||
    bitAt 4 c.stage.pk.byp ||| bitAt 5 c.stage.hc0.byp ||| bitAt 6 c.stage.hc1.byp ||| bitAt 7 c.stage.hc2.byp |||
    bitAt 8 c.stage.hc3.byp ||| bitAt 9 c.gbypLC ||| bitAt 10 c.gbypPK ||| bitAt 11 c.gbypHC

end Sys2Proof.Machine
end

