-- ==== Sys2Proof/Machine/Operands.lean ====
section
/-!
DEFINITION. Every operand form: channel and FIFO selectors (R91, R93), FIFO elements as payload words (R97, R99,
R122), transform orders (R159), register numbers and register contents (R23 to R26), and the settings snapshot (R244).
-/

namespace Sys2Proof.Machine

/-! ## Selectors -/

/-- A channel operand: legal when `ch < NCH` (R91). -/
def State.channelSel (s : State) (ch : BitVec 4) : Option Nat :=
  if ch.toNat < s.nch then some ch.toNat else none

/-- The kind field (R91): 3 is reserved. -/
def fifoKind (k : BitVec 2) : Option FifoKind :=
  if k = 0 then some .sf else if k = 1 then some .mf else if k = 2 then some .cf else none

/-- The FIFO selector of formats Q and QI (R93). -/
def State.fifoSel (s : State) (ch : BitVec 4) (k : BitVec 2) : Option (Nat × FifoKind) :=
  match fifoKind k, s.channelSel ch with
  | some kind, some c => some (c, kind)
  | some _, none => none
  | none, _ => none

/-- `producer(q)` (R36, R123). -/
def FifoKind.producer : FifoKind → Port
  | .sf => .A
  | .mf => .B
  | .cf => .B

/-- `consumer(q)` (R36, R123). -/
def FifoKind.consumer : FifoKind → Port
  | .sf => .B
  | .mf => .B
  | .cf => .B

/-! ## FIFO elements as payload words -/

/-- `PMAX` (R7). -/
def pmax : Nat := 4096

/-- The points of the words x0, y0, x1, y1, ... (R97). -/
def pointsOfWords : List Word → List (Point Word)
  | x :: y :: ws => { x := x, y := y } :: pointsOfWords ws
  | _ => []

/-- The words x0, y0, x1, y1, ... of points (R97, R99). -/
def wordsOfPoints : List (Point Word) → List Word
  | [] => []
  | p :: ps => p.x :: p.y :: wordsOfPoints ps

/-- The element a payload is for a FIFO of a kind and shape, where it is one (R97, R125). The number of payload
words is the command's `cnt`. -/
def itemOfPayload (kind : FifoKind) (shape : Nat) (payload : List Word) : Option Item :=
  match kind with
  | .sf => if payload.length = shape then some (.samples payload) else none
  | .mf => if payload.length = shape then some (.spectrum payload) else none
  | .cf =>
    match payload with
    | [] => none
    | w :: ws =>
      let np := (w.extractLsb' 0 13).toNat
      if w.extractLsb' 13 19 = 0 ∧ np ≤ pmax ∧ ws.length = 2 * np then some (.curve (pointsOfWords ws)) else none

/-- The payload words of an element (R97, R99). -/
def Item.words : Item → List Word
  | .samples xs => xs
  | .spectrum db => db
  | .curve pts => BitVec.ofNat 32 pts.length :: wordsOfPoints pts

/-! ## Transform orders -/

/-- The order an immediate names: 11, 12 or 13 (R158, R159). -/
def orderOf (imm : BitVec 18) : Option Order :=
  if imm = 11 then some .o11 else if imm = 12 then some .o12 else if imm = 13 then some .o13 else none

/-! ## Registers -/

/-- The implemented registers (R23 to R26). -/
inductive Reg where
  | peakFreq | peakGain | peakQ | loCutFreq | hiCutFreq | loCutSlope | hiCutSlope | bypass | anEn
  | floorDb | stride | blkLen
  | status | errCause | errWord
  | ordr (ch : Nat)
  deriving DecidableEq, Repr

/-- The register a number names, where it names one (R23, R64). -/
def regOf (nch : Nat) (r : BitVec 8) : Option Reg :=
  if r = 0x00 then some .peakFreq
  else if r = 0x01 then some .peakGain
  else if r = 0x02 then some .peakQ
  else if r = 0x03 then some .loCutFreq
  else if r = 0x04 then some .hiCutFreq
  else if r = 0x05 then some .loCutSlope
  else if r = 0x06 then some .hiCutSlope
  else if r = 0x07 then some .bypass
  else if r = 0x08 then some .anEn
  else if r = 0x10 then some .floorDb
  else if r = 0x11 then some .stride
  else if r = 0x12 then some .blkLen
  else if r = 0x20 then some .status
  else if r = 0x21 then some .errCause
  else if r = 0x22 then some .errWord
  else if 0x30 ≤ r.toNat ∧ r.toNat < 0x30 + nch then some (.ordr (r.toNat - 0x30))
  else none

/-- Whether agent H, agent B or no agent writes a register (R24 to R26). -/
inductive RegGroup where
  | parameter
  | configuration
  | readOnly
  deriving DecidableEq, Repr

def Reg.group : Reg → RegGroup
  | .peakFreq => .parameter
  | .peakGain => .parameter
  | .peakQ => .parameter
  | .loCutFreq => .parameter
  | .hiCutFreq => .parameter
  | .loCutSlope => .parameter
  | .hiCutSlope => .parameter
  | .bypass => .parameter
  | .anEn => .parameter
  | .floorDb => .configuration
  | .stride => .configuration
  | .blkLen => .configuration
  | .status => .readOnly
  | .errCause => .readOnly
  | .errWord => .readOnly
  | .ordr _ => .readOnly

/-- A register field in the low bits of a word, the other bits zero (R23, U11). -/
def fieldWord {n : Nat} (v : BitVec n) : Word := v.setWidth 32

/-- ORDR (R26): the order, or 0 while there is none. -/
def ordWord : Option Order → Word
  | none => 0
  | some o => BitVec.ofNat 32 o.log2

/-- The value of a register, `none` while it is unwritten (R23 to R26). -/
def State.readReg (s : State) : Reg → Option Word
  | .peakFreq => s.params.peakFreq
  | .peakGain => s.params.peakGain
  | .peakQ => s.params.peakQ
  | .loCutFreq => s.params.loCutFreq
  | .hiCutFreq => s.params.hiCutFreq
  | .loCutSlope => s.params.loCutSlope.map fieldWord
  | .hiCutSlope => s.params.hiCutSlope.map fieldWord
  | .bypass => s.params.bypass.map fieldWord
  | .anEn => s.params.anEn.map fieldWord
  | .floorDb => some s.floorDb
  | .stride => some (fieldWord s.stride)
  | .blkLen => s.blkLen.map fieldWord
  | .status => some s.statusWord
  | .errCause => some s.errCauseWord
  | .errWord => some s.errWordWord
  | .ordr ch => some (ordWord (s.chan ch).ord)

/-- Whether a value is outside the legal range of a register that checks it (R25, R242). -/
def State.badRegValue (s : State) (r : Reg) (v : Word) : Bool :=
  match r with
  | .floorDb => !(Numeric.finite s.cfg.num v)
  | .stride => decide (v.extractLsb' 0 13 = 0 ∨ 4096 < (v.extractLsb' 0 13).toNat)
  | .blkLen => decide (v.extractLsb' 0 14 = 0 ∨ 8192 < (v.extractLsb' 0 14).toNat)
  | _ => false

/-- The store of `fields(r, v)` (R242): the bits the register has are kept, the rest dropped (R23, U11).
Read-only registers are never stored to. -/
def State.storeReg (s : State) (r : Reg) (v : Word) : State :=
  match r with
  | .peakFreq => { s with params := { s.params with peakFreq := some v } }
  | .peakGain => { s with params := { s.params with peakGain := some v } }
  | .peakQ => { s with params := { s.params with peakQ := some v } }
  | .loCutFreq => { s with params := { s.params with loCutFreq := some v } }
  | .hiCutFreq => { s with params := { s.params with hiCutFreq := some v } }
  | .loCutSlope => { s with params := { s.params with loCutSlope := some (v.extractLsb' 0 3) } }
  | .hiCutSlope => { s with params := { s.params with hiCutSlope := some (v.extractLsb' 0 3) } }
  | .bypass => { s with params := { s.params with bypass := some (v.extractLsb' 0 3) } }
  | .anEn => { s with params := { s.params with anEn := some (v.extractLsb' 0 1) } }
  | .floorDb => { s with floorDb := v }
  | .stride => { s with stride := v.extractLsb' 0 13 }
  | .blkLen => { s with blkLen := some (v.extractLsb' 0 14) }
  | .status => s
  | .errCause => s
  | .errWord => s
  | .ordr _ => s

/-- `snapshot(P)` (R244): defined only when all nine parameter registers are written. -/
def Params.snapshot (p : Params) : Option (ChainSettings Word) :=
  match p.peakFreq, p.peakGain, p.peakQ, p.loCutFreq, p.hiCutFreq, p.loCutSlope, p.hiCutSlope, p.bypass, p.anEn with
  | some pf, some pg, some pq, some lf, some hf, some ls, some hs, some by3, some an =>
    some
      { peakFreqHz := pf, peakGainDb := pg, peakQuality := pq, lowCutFreqHz := lf, highCutFreqHz := hf
        lowCutSlopeOrder := ls, highCutSlopeOrder := hs, peakBypassed := by3.getLsbD 0
        lowCutBypassed := by3.getLsbD 1, highCutBypassed := by3.getLsbD 2, analyzerEnabled := an.getLsbD 0 }
  | _, _, _, _, _, _, _, _, _ => none

end Sys2Proof.Machine
end

