-- ==== Sys2Proof/Machine/Fifo.lean ====
section
/-!
DEFINITION. The ring buffer commands `FPREP`, `FPUSH`, `FPULL`, `FAVAIL`, `FOVF` (R124 to R128).

A command that begins with `turn.split` set stops after its first micro-step and goes on in later steps of its
port; otherwise its micro-steps follow one another in the same step (R66).
-/

namespace Sys2Proof.Machine

/-! ## FPREP -/

/-- `shape` of a FIFO of channel `ch` as `FPREP` latches it (R36, R124). -/
def State.latchedShape (s : State) (ch : Nat) : FifoKind → Nat
  | .sf => match s.blkLen with
    | none => 0
    | some n => n.toNat
  | .mf => match (s.chan ch).ord with
    | none => 0
    | some o => o.size / 2
  | .cf => 0

/-- `prepare(capacity)` of one FIFO of a channel (R124). -/
def Channel.prepare (F : NumFormat) (c : Channel) (cap shape : Nat) : FifoKind → Channel
  | .sf => { c with sf := Fifo.prepare cap shape (List.replicate shape (resetZero F)) }
  | .mf => { c with mf := Fifo.prepare cap shape (List.replicate shape (resetZero F)) }
  | .cf => { c with cf := Fifo.prepare cap shape [] }

/-- Agent A has begun an `FPUSH` on `SF[ch]` and not finished it (R311). -/
def State.pushInFlight (s : State) (ch : Nat) : Bool :=
  match s.ports.a.busy with
  | some (.pushCopy c (.samples _)) => c == ch
  | some (.pushPublish c .sf) => c == ch
  | _ => false

/-- `FPREP q, cap` (R124). Between the steps of an `FPUSH SF[ch]` it is refused (R311, U1). -/
def execFprep (ch : BitVec 4) (k : BitVec 2) (cap : BitVec 18) (s : State) : Result :=
  let w := (Instr.fprep ch k cap).word
  match s.fifoSel ch k with
  | none => .next (s.raise .badOperand w)
  | some (c, kind) =>
    guarded s w
      [(s.cur != .B, .wrongPort),
        (kind == .mf && (s.chan c).ord.isNone, .notPrepared),
        (kind == .sf && s.blkLen.isNone, .unwritten),
        (cap == 0 || decide (s.cfg.cmax < cap.toNat), .badOperand)]
      (if kind == .sf && s.pushInFlight c then .refused .prepDuringPush
      else
        .next
          ((s.modChan c fun x => x.prepare s.cfg.num cap.toNat (s.latchedShape c kind) kind).finish (respond .ok 0)))

/-! ## FPUSH -/

/-- Step 2 of a push (R125). -/
def State.pushCopy (s : State) (c : Nat) (x : Item) : State := s.modChan c fun ch => ch.copyIn x

/-- Step 3 of a push, and the response (R125). -/
def State.pushPublish (s : State) (c : Nat) (kind : FifoKind) : State :=
  (s.modChan c fun ch => ch.publish kind).finish (respond .ok 0)

/-- Step 1 of a push and, unless the command is cut, the steps after it (R125). -/
def State.beginPush (s : State) (c : Nat) (x : Item) : State :=
  if ((s.chan c).fifo x.kind).full then (s.modChan c fun ch => ch.countDrop x.kind).finish (respond .dropped 0)
  else if s.turn.split then s.setBusy (.pushCopy c x)
  else (s.pushCopy c x).pushPublish c x.kind

/-- `FPUSH q, cnt : item` (R125). -/
def execFpush (ch : BitVec 4) (k : BitVec 2) (item : List Word) (s : State) : Result :=
  let w := (Instr.fpush ch k item).word
  match s.fifoSel ch k with
  | none => .next (s.raise .badOperand w)
  | some (c, kind) =>
    let q := (s.chan c).fifo kind
    guarded s w [(s.cur != kind.producer, .wrongPort), (!q.prepared, .notPrepared)]
      (match itemOfPayload kind q.shape item with
      | none => .next (s.raise .badOperand w)
      | some x => .next (s.beginPush c x))

/-! ## FPULL -/

/-- The response of a pull that took an element (R99). -/
def pullResponse (x : Item) : Response := respondWith x.words.length x.words

/-- Step 3 of a pull, and the response (R126). -/
def State.pullFree (s : State) (c : Nat) (x : Item) : State :=
  (s.modChan c fun ch => ch.free x.kind).finish (pullResponse x)

/-- Step 1 of a pull and, unless the command is cut, the steps after it (R126). -/
def State.beginPull (s : State) (c : Nat) (kind : FifoKind) : State :=
  if ((s.chan c).fifo kind).readable = 0 then s.finish (respond .empty 0)
  else if s.turn.split then s.setBusy (.pullCopy c kind)
  else s.pullFree c ((s.chan c).front kind)

/-- `FPULL q` (R126). -/
def execFpull (ch : BitVec 4) (k : BitVec 2) (s : State) : Result :=
  let w := (Instr.fpull ch k).word
  match s.fifoSel ch k with
  | none => .next (s.raise .badOperand w)
  | some (c, kind) =>
    guarded s w [(s.cur != kind.consumer, .wrongPort), (!((s.chan c).fifo kind).prepared, .notPrepared)]
      (.next (s.beginPull c kind))

/-! ## FAVAIL and FOVF -/

/-- `FAVAIL q` (R127): at one instant the producer's and the consumer's count are the same number. -/
def execFavail (ch : BitVec 4) (k : BitVec 2) (s : State) : Result :=
  let w := (Instr.favail ch k).word
  match s.fifoSel ch k with
  | none => .next (s.raise .badOperand w)
  | some (c, kind) =>
    let q := (s.chan c).fifo kind
    guarded s w [(s.cur != kind.producer && s.cur != kind.consumer, .wrongPort), (!q.prepared, .notPrepared)]
      (.next (s.finish (respond .ok q.readable)))

/-- `FOVF q` (R128). -/
def execFovf (ch : BitVec 4) (k : BitVec 2) (s : State) : Result :=
  match s.fifoSel ch k with
  | none => .next (s.raise .badOperand (Instr.fovf ch k).word)
  | some (c, kind) => .next (s.finish (respond .ok ((s.chan c).fifo kind).ovf))

end Sys2Proof.Machine
end

