-- ==== Sys2Proof/Machine/CurveUnit.lean ====
section
/-!
DEFINITION. The function units of the curve generator: the log-frequency map (R181), the point of one bin (R182,
R183) and the polyline of one spectrum (R184).
-/

namespace Sys2Proof.Machine

/-- `mapFromLog10(v, lo, hi)` (R181). -/
def mapFromLog10 {α : Type} (A : Arith α) (v lo hi : α) : α :=
  A.div (A.log10 (A.div v lo)) (A.log10 (A.div hi lo))

/-- The x coordinate of bin `k` (R183). -/
def pointX {α : Type} (A : Arith α) (k : Nat) (bw binWidthHz : α) : α :=
  A.mul (mapFromLog10 A (A.mul (A.ofNat k) binWidthHz) (A.ofRat 20) (A.ofRat 20000)) bw

/-- The y coordinate of decibel value `d` (R183), with `top = by` and `bottom = by + bh` (R182). -/
def pointY {α : Type} (A : Arith α) (d bt bh floorDb : α) : α :=
  let bottom := A.add bt bh
  A.add bottom (A.mul (A.div (A.sub d floorDb) (A.sub (A.ofRat 0) floorDb)) (A.sub bt bottom))

/-- The point of one bin, where both coordinates are finite (R184). -/
def pointOf {α : Type} (A : Arith α) (k : Nat) (d bt bw bh binWidthHz floorDb : α) : Option (Point α) :=
  let x := pointX A k bw binWidthHz
  let y := pointY A d bt bh floorDb
  if A.finite x && A.finite y then some { x := x, y := y } else none

/-- The loop of `genPath` (R184) from bin `k`, with at most `fuel` iterations to come. -/
def genPathFrom {α : Type} (A : Arith α) (db : List α) (half stride : Nat) (bt bw bh binWidthHz floorDb : α) :
    Nat → Nat → List (Point α)
  | 0, _ => []
  | fuel + 1, k =>
    if k < half then
      (pointOf A k (db.getD k (A.ofRat 0)) bt bw bh binWidthHz floorDb).toList ++
        genPathFrom A db half stride bt bw bh binWidthHz floorDb fuel (k + stride)
    else []

/-- `genPath` (R184). A stride of at least 1 visits at most `N/2` bins. -/
def genPath {α : Type} (A : Arith α) (db : List α) (N : Nat) (bt bw bh binWidthHz floorDb : α) (stride : Nat) :
    List (Point α) :=
  genPathFrom A db (N / 2) stride bt bw bh binWidthHz floorDb (N / 2) 0

end Sys2Proof.Machine
end

