-- ==== Sys2Proof/Machine/SpectralUnit.lean ====
section
/-!
DEFINITION. The function units of the spectral stage: the shift-in of the sample window (R141), the analysis
window (R151, R152), the magnitude-only transform (R153, R154), the normalisation (R155) and the decibel
converter (R156).
-/

namespace Sys2Proof.Machine

/-- `shiftIn` (R141): shift the window left by the block's length and append the block. -/
def shiftIn (win blk : List Word) : List Word := win.drop blk.length ++ blk

/-- The analysis window `w_N[n]` (R151), with `t = 2*PI*n/(N-1)`. -/
def windowWeight {α : Type} (A : Arith α) (kind : WindowKind) (N n : Nat) : α :=
  let t := A.div (A.mul (A.piMul (A.ofRat 2)) (A.ofNat n)) (A.ofNat (N - 1))
  match kind with
  | .bh4 =>
    A.sub
      (A.add
        (A.sub (A.ofRat (35875 / 100000)) (A.mul (A.ofRat (48829 / 100000)) (A.cos t)))
        (A.mul (A.ofRat (14128 / 100000)) (A.cos (A.mul (A.ofRat 2) t))))
      (A.mul (A.ofRat (1168 / 100000)) (A.cos (A.mul (A.ofRat 3) t)))
  | .hann => A.sub (A.ofRat (1 / 2)) (A.mul (A.ofRat (1 / 2)) (A.cos t))
  | .hamming => A.sub (A.ofRat (54 / 100)) (A.mul (A.ofRat (46 / 100)) (A.cos t))

/-- Windowing (R152): one multiplication per sample. -/
def applyWindow {α : Type} (A : Arith α) (kind : WindowKind) (N : Nat) (work : List α) : List α :=
  List.zipWith (fun n x => A.mul x (windowWeight A kind N n)) (List.range work.length) work

/-! ## The transform (R153, R154)

The sums of R153 are accumulated in integers: samples over their common denominator, cosines and sines in fixed
point. -/

/-- A common denominator of finite samples. -/
def commonDen (qs : List Rat) : Nat := qs.foldl (fun d q => Nat.lcm d q.den) 1

/-- The table of `(cos, sin)` of `2*PI*j/N`, in fixed point. -/
def cosSinTable (N : Nat) : Array (Int × Int) :=
  ((List.range N).map fun j => Fix.sinCos (2 * Fix.pi * j / N)).toArray

/-- The sums `Re[k]` and `Im[k]` of R153 over the samples still to come, the next one with index `j = k*n mod N`
in the table. -/
def dftSum (tab : Array (Int × Int)) (N k : Nat) : List Int → Nat → Int → Int → Int × Int
  | [], _, re, im => (re, im)
  | x :: xs, j, re, im =>
    let c := tab.getD j (0, 0)
    dftSum tab N k xs ((j + k) % N) (re + x * c.1) (im - x * c.2)

/-- `mag[k]` of R153 before it is rounded (notes/assumptions/6.md): samples as counts of `1/den`. -/
def exactMagnitude (tab : Array (Int × Int)) (N k den : Nat) (units : List Int) : Rat :=
  let s := dftSum tab N k units 0 0 0
  mkRat (Fix.isqrt (s.1 * s.1 + s.2 * s.2).toNat) (den * 2 ^ Fix.bits)

/-- Whether a stored value is within `TOL` of `m` (R12, U6). DESIGN CHOICE (notes/assumptions/15.md): the spec gives the
tolerance no measure; here it is the absolute distance, which no infinity and no `NaN` meets. -/
def withinTol (tol m : Rat) : Ext → Bool
  | .fin v => decide (m - tol ≤ v ∧ v ≤ m + tol)
  | .posInf => false
  | .negInf => false
  | .nan => false

/-- One magnitude of the configured unit for finite samples, `m` its exact value: the reference unit rounds `m`; another
unit answers a value of its own within `TOL` of it (R154). -/
def unitMagnitude (cfg : Config) (xs : List Word) (k : Nat) (m : Rat) : Word :=
  match cfg.fft with
  | .reference => Numeric.ofRat cfg.num m
  | .other id =>
    let w := Config.otherFft cfg.num id xs k
    if withinTol cfg.tol m (Numeric.value cfg.num w) then w else Numeric.ofRat cfg.num m

/-- One magnitude where a sample is not finite: every bin's sum involves every sample, so it is `NaN` or `+Inf`
(R154). -/
def nonFiniteMagnitude (cfg : Config) (xs : List Word) (k : Nat) : Word :=
  match cfg.fft with
  | .reference => Numeric.rnd cfg.num .nan
  | .other id => if Config.otherFftInf cfg.num id xs k then Numeric.rnd cfg.num .posInf else Numeric.rnd cfg.num .nan

/-- `fftmag_N` (R154): one function of the configuration and the samples, of length `N/2`. Samples that are all zero
have magnitudes 0 (R160). -/
def fftmag (cfg : Config) (xs : List Word) : List Word :=
  let N := xs.length
  match (xs.map (Numeric.value cfg.num)).mapM Extended.finite? with
  | none => (List.range (N / 2)).map (nonFiniteMagnitude cfg xs)
  | some qs =>
    let den := commonDen qs
    let units : List Int := qs.map fun q => q.num * (den / q.den : Nat)
    if units.all (· == 0) then (List.range (N / 2)).map fun _ => Numeric.ofRat cfg.num 0
    else
      let tab := cosSinTable N
      (List.range (N / 2)).map fun k => unitMagnitude cfg xs k (exactMagnitude tab N k den units)

/-! ## Decibels -/

/-- `toDb(m, floorDb)` (R156). -/
def toDb {α : Type} (A : Arith α) (m floorDb : α) : α :=
  if A.isNan m || !(A.lt (A.ofRat 0) m) then floorDb
  else
    let d := A.mul (A.ofRat 20) (A.log10 m)
    if !(A.finite d) then floorDb
    else if A.lt d floorDb then floorDb
    else d

/-- The normalisation of one magnitude (R155). -/
def normalise {α : Type} (A : Arith α) (N : Nat) (m : α) : α := A.div m (A.ofNat (N / 2))

/-- Steps 1 to 5 of R160 with a given transform unit: the Magnitude Spectrum of a sample window. -/
def spectrumWith {α : Type} (A : Arith α) (kind : WindowKind) (fft : List α → List α) (N : Nat) (win : List α)
    (floorDb : α) : List α :=
  (fft (applyWindow A kind N win)).map fun m => toDb A (normalise A N m) floorDb

/-- The Magnitude Spectrum in the configured format, window and unit. -/
def spectrumOf (cfg : Config) (N : Nat) (win : List Word) (floorDb : Word) : List Word :=
  spectrumWith (Numeric.arith cfg.num) cfg.window (fftmag cfg) N win floorDb

end Sys2Proof.Machine
end

