-- ==== Sys2Proof/Machine/Reassembler.lean ====
section
/-!
DEFINITION. The block reassembler's command `RFEED` (R142).
-/

namespace Sys2Proof.Machine

/-- `N = 2^ORD[ch]`, 0 while `ORD[ch]` holds no value (R37). -/
def Channel.size (c : Channel) : Nat :=
  match c.ord with
  | none => 0
  | some o => o.size

/-- Step 3 of the pull of `RFEED`, and the shift of the block into the window (R141, R142). -/
def Channel.takeBlock (c : Channel) (blk : List Word) : Channel :=
  { c with sf := c.sf.free, win := shiftIn c.win blk }

/-- A whole `RFEED` on a channel with a block to pull (R142). -/
def Channel.feed (c : Channel) : Channel := c.takeBlock (c.sf.front [])

/-- Step 3 of the pull of `RFEED`, the shift, and the response (R142). -/
def State.feedFree (s : State) (c : Nat) (blk : List Word) : State :=
  (s.modChan c fun ch => ch.takeBlock blk).finish (respond .ok (s.chan c).sf.shape)

/-- Step 1 of the pull of `RFEED` and, unless the command is cut, the steps after it (R142). -/
def State.beginFeed (s : State) (c : Nat) : State :=
  if (s.chan c).sf.readable = 0 then s.finish (respond .empty 0)
  else if s.turn.split then s.setBusy (.feedCopy c)
  else s.feedFree c ((s.chan c).sf.front [])

/-- `RFEED ch` (R142). -/
def execRfeed (ch : BitVec 4) (s : State) : Result :=
  let w := (Instr.rfeed ch).word
  match s.channelSel ch with
  | none => .next (s.raise .badOperand w)
  | some c =>
    let x := s.chan c
    guarded s w
      [(s.cur != .B, .wrongPort),
        (!x.sf.prepared || x.ord.isNone, .notPrepared),
        (decide (x.size < x.sf.shape), .badOperand)]
      (.next (s.beginFeed c))

end Sys2Proof.Machine
end

