-- ==== Sys2Proof/Machine/Spectral.lean ====
section
/-!
DEFINITION. The spectral stage's commands `CHORD` and `SPEC` (R158, R160).
-/

namespace Sys2Proof.Machine

/-- `changeOrder` (R158): the new order, a window of zeros, and the re-preparation of a prepared `MF[ch]` at the
new shape with its capacity unchanged. -/
def Channel.changeOrder (F : NumFormat) (c : Channel) (o : Order) : Channel :=
  { c with
    ord := some o
    win := List.replicate o.size (resetZero F)
    mf :=
      if c.mf.prepared then Fifo.prepare c.mf.cap (o.size / 2) (List.replicate (o.size / 2) (resetZero F)) else c.mf }

/-- `CHORD ch, ord` (R158). -/
def execChord (ch : BitVec 4) (ord : BitVec 18) (s : State) : Result :=
  let w := (Instr.chord ch ord).word
  match s.channelSel ch with
  | none => .next (s.raise .badOperand w)
  | some c =>
    guarded s w [(s.cur != .B, .wrongPort)]
      (match orderOf ord with
      | none => .next (s.raise .badOperand w)
      | some o => .next ((s.modChan c fun x => x.changeOrder s.cfg.num o).finish (respond .ok 0)))

/-- The spectrum of the channel's window, pushed into `MF[ch]` (R160). -/
def Channel.analyse (cfg : Config) (floorDb : Word) (c : Channel) : Channel :=
  c.push (.spectrum (spectrumOf cfg c.size c.win floorDb))

/-- `SPEC ch : floorDb` (R160). Every field of `MF[ch]` is agent B's, so its micro-steps are one step. -/
def execSpec (ch : BitVec 4) (floorDb : Word) (s : State) : Result :=
  let w := (Instr.spec ch floorDb).word
  match s.channelSel ch with
  | none => .next (s.raise .badOperand w)
  | some c =>
    let x := s.chan c
    guarded s w
      [(s.cur != .B, .wrongPort),
        (x.ord.isNone || !x.mf.prepared, .notPrepared),
        (!(Numeric.finite s.cfg.num floorDb), .badOperand)]
      (.next ((s.modChan c fun y => y.analyse s.cfg floorDb).finish (respond (pushStatus x .mf) 0)))

end Sys2Proof.Machine
end

