-- ==== Sys2Proof/Machine/Curve.lean ====
section
/-!
DEFINITION. The curve generator's commands `CGEN`, `CGET`, `RDCRV` (R186 to R188).
-/

namespace Sys2Proof.Machine

/-- The polyline of the spectrum at the head of `MF[ch]` (R184, R186). -/
def Channel.headCurve (F : NumFormat) (stride : Nat) (bt bw bh binWidthHz floorDb : Word) (c : Channel) :
    List (Point Word) :=
  genPath (Numeric.arith F) (c.mf.front []) c.size bt bw bh binWidthHz floorDb stride

/-- A whole `CGEN` on a channel with a spectrum to pull (R186). -/
def Channel.genCurve (F : NumFormat) (stride : Nat) (bt bw bh binWidthHz floorDb : Word) (c : Channel) : Channel :=
  (c.free .mf).push (.curve (c.headCurve F stride bt bw bh binWidthHz floorDb))

/-- `CGEN ch : bx, by, bw, bh, binWidthHz, floorDb` (R186); `bx` is not used (R182). Every field of `MF[ch]` and
`CF[ch]` is agent B's, so its micro-steps are one step. -/
def execCgen (ch : BitVec 4) (bx bt bw bh binWidthHz floorDb : Word) (s : State) : Result :=
  let w := (Instr.cgen ch bx bt bw bh binWidthHz floorDb).word
  match s.channelSel ch with
  | none => .next (s.raise .badOperand w)
  | some c =>
    let x := s.chan c
    guarded s w
      [(s.cur != .B, .wrongPort),
        (x.ord.isNone || !x.mf.prepared || !x.cf.prepared, .notPrepared),
        (!(Numeric.finite s.cfg.num floorDb), .badOperand)]
      (if x.mf.readable = 0 then .next (s.finish (respond .empty 0))
      else
        .next
          ((s.modChan c fun y => y.genCurve s.cfg.num s.stride.toNat bt bw bh binWidthHz floorDb).finish
            (respond (pushStatus x .cf) (x.headCurve s.cfg.num s.stride.toNat bt bw bh binWidthHz floorDb).length)))

/-- `n` pulls from `CF[ch]`, each kept in `CURVE[ch]` (R187). -/
def Channel.drainCurves : Nat → Channel → Channel
  | 0, c => c
  | n + 1, c => Channel.drainCurves n { c with curve := c.cf.front [], cf := c.cf.free }

/-- `CGET ch` (R187). -/
def execCget (ch : BitVec 4) (s : State) : Result :=
  let w := (Instr.cget ch).word
  match s.channelSel ch with
  | none => .next (s.raise .badOperand w)
  | some c =>
    let x := s.chan c
    guarded s w [(s.cur != .B, .wrongPort), (!x.cf.prepared, .notPrepared)]
      (.next ((s.modChan c fun y => y.drainCurves x.cf.readable).finish (respond .ok x.cf.readable)))

/-- `RDCRV ch` (R188). -/
def execRdcrv (ch : BitVec 4) (s : State) : Result :=
  let w := (Instr.rdcrv ch).word
  match s.channelSel ch with
  | none => .next (s.raise .badOperand w)
  | some c =>
    guarded s w [(s.cur != .B, .wrongPort)]
      (.next (s.finish (respondWith (s.chan c).curve.length (wordsOfPoints (s.chan c).curve))))

end Sys2Proof.Machine
end

