-- ==== Sys2Proof/Machine/FilterUnit.lean ====
section
/-!
DEFINITION. The function units of the filter chain: the domain of valid settings (R202), the coefficient design
(R203 to R208), and the biquad cascade (R216, R217).
-/

namespace Sys2Proof.Machine

/-! ## Design -/

/-- The peak stage (R203) for `f = peakFreqHz`, `g = peakGainDb`, `q = peakQuality`. -/
def peakBiquad {α : Type} (A : Arith α) (f g q fs : α) : Biquad α :=
  let one := A.ofRat 1
  let a := A.pow10 (A.div g (A.ofRat 40))
  let w := A.div (A.mul (A.piMul (A.ofRat 2)) f) fs
  let al := A.div (A.sin w) (A.mul (A.ofRat 2) q)
  let a0 := A.add one (A.div al a)
  let mid := A.div (A.mul (A.ofRat (-2)) (A.cos w)) a0
  { b0 := A.div (A.add one (A.mul al a)) a0
    b1 := mid
    b2 := A.div (A.sub one (A.mul al a)) a0
    a1 := mid
    a2 := A.div (A.sub one (A.div al a)) a0 }

/-- The Butterworth section quality `Q(M, i)` (R204). -/
def sectionQuality {α : Type} (A : Arith α) (M i : Nat) : α :=
  A.div (A.ofRat 1)
    (A.mul (A.ofRat 2) (A.cos (A.div (A.piMul (A.ofNat (2 * i + 1))) (A.ofNat (4 * M)))))

/-- `n` of R205 and R206: the pre-warped cut-off. -/
def prewarp {α : Type} (A : Arith α) (f fs : α) : α := A.tan (A.div (A.piMul f) fs)

/-- `c` of R205 and R206. -/
def sectionGain {α : Type} (A : Arith α) (n q : α) : α :=
  A.div (A.ofRat 1) (A.add (A.add (A.ofRat 1) (A.div n q)) (A.mul n n))

/-- `a1` of R205 and R206. -/
def sectionA1 {α : Type} (A : Arith α) (n c : α) : α :=
  A.mul (A.mul (A.ofRat 2) c) (A.sub (A.mul n n) (A.ofRat 1))

/-- `a2` of R205 and R206. -/
def sectionA2 {α : Type} (A : Arith α) (n q c : α) : α :=
  A.mul c (A.add (A.sub (A.ofRat 1) (A.div n q)) (A.mul n n))

/-- A low-cut section (R205). -/
def lowCutBiquad {α : Type} (A : Arith α) (f q fs : α) : Biquad α :=
  let n := prewarp A f fs
  let c := sectionGain A n q
  { b0 := c, b1 := A.mul (A.ofRat (-2)) c, b2 := c, a1 := sectionA1 A n c, a2 := sectionA2 A n q c }

/-- A high-cut section (R206). -/
def highCutBiquad {α : Type} (A : Arith α) (f q fs : α) : Biquad α :=
  let n := prewarp A f fs
  let c := sectionGain A n q
  { b0 := A.mul (A.mul n n) c
    b1 := A.mul (A.mul (A.mul (A.ofRat 2) n) n) c
    b2 := A.mul (A.mul n n) c
    a1 := sectionA1 A n c
    a2 := sectionA2 A n q c }

/-- An inactive stage (R207). -/
def identityStage {α : Type} (A : Arith α) : Stage α :=
  { co := Biquad.identity (A.ofRat 1) (A.ofRat 0), byp := true }

/-- Stage `i` of a low-cut group of slope order `M` (R208). -/
def lowCutStage {α : Type} (A : Arith α) (M : Nat) (f fs : α) (i : Nat) : Stage α :=
  if i < M then { co := lowCutBiquad A f (sectionQuality A M i) fs, byp := false } else identityStage A

/-- Stage `i` of a high-cut group of slope order `M` (R208). -/
def highCutStage {α : Type} (A : Arith α) (M : Nat) (f fs : α) (i : Nat) : Stage α :=
  if i < M then { co := highCutBiquad A f (sectionQuality A M i) fs, byp := false } else identityStage A

/-- `design(set, fs)` (R208). -/
def design {α : Type} (A : Arith α) (c : ChainSettings α) (fs : α) : CoeffSet α :=
  let lc := lowCutStage A c.lowCutSlopeOrder.toNat c.lowCutFreqHz fs
  let hc := highCutStage A c.highCutSlopeOrder.toNat c.highCutFreqHz fs
  { stage :=
      { lc0 := lc 0, lc1 := lc 1, lc2 := lc 2, lc3 := lc 3
        pk := { co := peakBiquad A c.peakFreqHz c.peakGainDb c.peakQuality fs, byp := c.peakBypassed }
        hc0 := hc 0, hc1 := hc 1, hc2 := hc 2, hc3 := hc 3 }
    gbypLC := c.lowCutBypassed
    gbypPK := c.peakBypassed
    gbypHC := c.highCutBypassed }

/-! ## The domain of R202 -/

/-- A frequency finite and in the open interval (0, fs/2), for a finite positive `fs`. -/
def freqValid (fs : Rat) : Ext → Bool
  | .fin f => decide (0 < f ∧ 2 * f < fs)
  | .posInf => false
  | .negInf => false
  | .nan => false

/-- Finite and positive. -/
def positive : Ext → Bool
  | .fin q => decide (0 < q)
  | .posInf => false
  | .negInf => false
  | .nan => false

/-- A slope order in {1,2,3,4}. -/
def slopeValid (m : BitVec 3) : Bool := decide (1 ≤ m.toNat ∧ m.toNat ≤ 4)

/-- The settings and sample rate are in the domain of R202. -/
def validSettings (F : NumFormat) (c : ChainSettings Word) (fs : Word) : Bool :=
  match Numeric.value F fs with
  | .fin r =>
    decide (0 < r) && freqValid r (Numeric.value F c.peakFreqHz) && freqValid r (Numeric.value F c.lowCutFreqHz) &&
      freqValid r (Numeric.value F c.highCutFreqHz) && Numeric.finite F c.peakGainDb &&
      positive (Numeric.value F c.peakQuality) && slopeValid c.lowCutSlopeOrder && slopeValid c.highCutSlopeOrder
  | .posInf => false
  | .negInf => false
  | .nan => false

/-! ## The CoeffSet outside that domain -/

/-- Stage `j` of the free CoeffSet number `n`. -/
def freeStage (n j : Nat) : Stage Word :=
  { co :=
      { b0 := Config.freeWord n (5 * j), b1 := Config.freeWord n (5 * j + 1), b2 := Config.freeWord n (5 * j + 2)
        a1 := Config.freeWord n (5 * j + 3), a2 := Config.freeWord n (5 * j + 4) }
    byp := Config.freeBit n j }

/-- FREE VALUE (notes/assumptions/5.md): the unspecified CoeffSet of R202, all of it unconstrained. -/
def freeCoeffSet (n : Nat) : CoeffSet Word :=
  { stage :=
      { lc0 := freeStage n 0, lc1 := freeStage n 1, lc2 := freeStage n 2, lc3 := freeStage n 3, pk := freeStage n 4
        hc0 := freeStage n 5, hc1 := freeStage n 6, hc2 := freeStage n 7, hc3 := freeStage n 8 }
    gbypLC := Config.freeBit n 9
    gbypPK := Config.freeBit n 10
    gbypHC := Config.freeBit n 11 }

/-- `NEWC <- design(SET, fs)` (R210, R248): the design in the domain of R202, a free CoeffSet outside it. -/
def State.computeCoeffs (s : State) (c : ChainSettings Word) (fs : Word) : State :=
  if validSettings s.cfg.num c fs then { s with newc := some (design (Numeric.arith s.cfg.num) c fs) }
  else { s with newc := some (freeCoeffSet s.freeCtr), freeCtr := s.freeCtr + 1 }

/-! ## Processing -/

/-- One biquad step, transposed direct form II (R216): the output, and the new `s1` and `s2`. -/
def biquad {α : Type} (A : Arith α) (c : Biquad α) (s1 s2 x : α) : α × α × α :=
  let y := A.add (A.mul c.b0 x) s1
  (y, A.add (A.sub (A.mul c.b1 x) (A.mul c.a1 y)) s2, A.sub (A.mul c.b2 x) (A.mul c.a2 y))

/-- A stage that runs, or passes its input on with its state untouched (R217). -/
def runStage {α : Type} (A : Arith α) (gbyp : Bool) (st : Stage α) (z : StageState α) (v : α) : α × StageState α :=
  if !gbyp && !st.byp then
    let r := biquad A st.co z.s1 z.s2 v
    (r.1, { s1 := r.2.1, s2 := r.2.2 })
  else (v, z)

/-- One sample through the nine stages in order (R214, R217). -/
def cascade {α : Type} (A : Arith α) (c : CoeffSet α) (z : Nine (StageState α)) (v : α) : α × Nine (StageState α) :=
  let r0 := runStage A c.gbypLC c.stage.lc0 z.lc0 v
  let r1 := runStage A c.gbypLC c.stage.lc1 z.lc1 r0.1
  let r2 := runStage A c.gbypLC c.stage.lc2 z.lc2 r1.1
  let r3 := runStage A c.gbypLC c.stage.lc3 z.lc3 r2.1
  let r4 := runStage A c.gbypPK c.stage.pk z.pk r3.1
  let r5 := runStage A c.gbypHC c.stage.hc0 z.hc0 r4.1
  let r6 := runStage A c.gbypHC c.stage.hc1 z.hc1 r5.1
  let r7 := runStage A c.gbypHC c.stage.hc2 z.hc2 r6.1
  let r8 := runStage A c.gbypHC c.stage.hc3 z.hc3 r7.1
  (r8.1,
    { lc0 := r0.2, lc1 := r1.2, lc2 := r2.2, lc3 := r3.2, pk := r4.2, hc0 := r5.2, hc1 := r6.2, hc2 := r7.2
      hc3 := r8.2 })

/-- The samples of one channel in time order (R214). -/
def processSamples {α : Type} (A : Arith α) (c : CoeffSet α) :
    Nine (StageState α) → List α → List α × Nine (StageState α)
  | z, [] => ([], z)
  | z, v :: vs =>
    let r := cascade A c z v
    let rest := processSamples A c r.2 vs
    (r.1 :: rest.1, rest.2)

/-- The channels in order, each with its `n` samples of the channel-major payload (R97, R214). -/
def processChannels (A : Arith Word) (c : CoeffSet Word) (n : Nat) :
    List Channel → List Word → List Word × List Channel
  | [], _ => ([], [])
  | ch :: chs, samples =>
    let r := processSamples A c ch.z (samples.take n)
    let rest := processChannels A c n chs (samples.drop n)
    (r.1 ++ rest.1, { ch with z := r.2 } :: rest.2)

end Sys2Proof.Machine
end

