-- ==== Sys2Proof/Machine/Filter.lean ====
section
/-!
DEFINITION. The filter chain's commands `CCOEF`, `APPLY`, `RDCOEF`, `PROC` (R210, R212 to R214).
-/

namespace Sys2Proof.Machine

/-- `CCOEF : fs` (R210). -/
def execCcoef (fs : Word) (s : State) : Result :=
  let w := (Instr.ccoef fs).word
  guarded s w [(s.cur != .B, .wrongPort)]
    (match s.settings with
    | none => .next (s.raise .notPrepared w)
    | some c => .next ((s.computeCoeffs c fs).finish (respond .ok 0)))

/-- `MBOX <- NEWC` (R212). -/
def State.postCoeffs (s : State) : State := { s with mbox := s.newc }

/-- `APPLY` (R212). -/
def execApply (s : State) : Result :=
  guarded s Instr.apply.word [(s.cur != .B, .wrongPort), (s.newc.isNone, .notPrepared)]
    (.next (s.postCoeffs.finish (respond .ok 0)))

/-- The words b0, b1, b2, a1, a2 of a stage (R213). -/
def Stage.words (st : Stage Word) : List Word := [st.co.b0, st.co.b1, st.co.b2, st.co.a1, st.co.a2]

/-- The payload of RDCOEF (R213): the flags word and the 45 coefficients in stage order. -/
def CoeffSet.words (c : CoeffSet Word) : List Word :=
  c.flags :: (c.stage.lc0.words ++ c.stage.lc1.words ++ c.stage.lc2.words ++ c.stage.lc3.words ++ c.stage.pk.words ++
    c.stage.hc0.words ++ c.stage.hc1.words ++ c.stage.hc2.words ++ c.stage.hc3.words)

/-- `RDCOEF` (R213). -/
def execRdcoef (s : State) : Result :=
  guarded s Instr.rdcoef.word [(s.cur != .B, .wrongPort)]
    (match s.newc with
    | none => .next (s.raise .notPrepared Instr.rdcoef.word)
    | some c => .next (s.finish (respondWith 46 c.words)))

/-- The take (R215). -/
def State.takeCoeffs (s : State) : State :=
  match s.mbox with
  | none => s
  | some c => { s with act := c, mbox := none }

/-- What follows the take of `PROC` (R214). -/
def State.runProc (s : State) (n : Nat) (samples : List Word) : State :=
  let r := processChannels (Numeric.arith s.cfg.num) s.act n s.chans samples
  { s with chans := r.2 }.finish (respondWith n r.1)

/-- `PROC n : samples` (R214). The take is one atomic step and agent A's steps after it are its own (R70). -/
def execProc (n : BitVec 18) (samples : List Word) (s : State) : Result :=
  guarded s (Instr.proc n samples).word [(s.cur != .A, .wrongPort)]
    (if s.turn.split then .next (s.takeCoeffs.setBusy (.procRun n.toNat samples))
    else .next (s.takeCoeffs.runProc n.toNat samples))

end Sys2Proof.Machine
end

