-- ==== Sys2Proof/Machine/System.lean ====
section
/-!
DEFINITION. The parameter store, the poll tick and the analysis poll: `WRR`, `RDR`, `SNAP`, `TCLR`, `TICK`,
`POLL` (R242 to R250).
-/

namespace Sys2Proof.Machine

/-! ## Registers -/

/-- The port that may write a register of a group (R242). -/
def RegGroup.writer : RegGroup → Option Port
  | .parameter => some .H
  | .configuration => some .B
  | .readOnly => none

/-- The store of `WRR` (R242): a parameter write also sets `PCHG`, in the same step. -/
def State.writeReg (s : State) (r : Reg) (v : Word) : State :=
  if r.group == .parameter then (s.storeReg r v).setPchg else s.storeReg r v

/-- `WRR r : v` (R242). -/
def execWrr (r : BitVec 8) (v : Word) (s : State) : Result :=
  let w := (Instr.wrr r v).word
  match regOf s.nch r with
  | none => .next (s.raise .badOperand w)
  | some reg =>
    guarded s w
      [(reg.group == .readOnly, .badOperand),
        (reg.group.writer != some s.cur, .wrongPort),
        (s.badRegValue reg v, .badOperand)]
      (.next ((s.writeReg reg v).finish (respond .ok 0)))

/-- `RDR r` (R243). -/
def execRdr (r : BitVec 8) (s : State) : Result :=
  let w := (Instr.rdr r).word
  match regOf s.nch r with
  | none => .next (s.raise .badOperand w)
  | some reg =>
    match s.readReg reg with
    | none => .next (s.raise .unwritten w)
    | some v => .next (s.finish (respondWith 1 [v]))

/-! ## Settings and the poll tick -/

/-- The latch of the nine parameter registers into `SET` (R63, R245). -/
def State.latchSettings (s : State) : State :=
  match s.params.snapshot with
  | none => s
  | some c => { s with settings := some c }

/-- `SNAP` (R245). -/
def execSnap (s : State) : Result :=
  guarded s Instr.snap.word [(s.cur != .B, .wrongPort), (s.params.snapshot.isNone, .unwritten)]
    (.next (s.latchSettings.finish (respond .ok 0)))

/-- `TCLR` (R247). -/
def execTclr (s : State) : Result :=
  guarded s Instr.tclr.word [(s.cur != .B, .wrongPort)]
    (.next (s.clearPchg.finish (respond .ok (if s.pchg then 1 else 0))))

/-- Step 3 of `TICK` (R248). -/
def State.tickDesign (s : State) (fs : Word) : State :=
  match s.settings with
  | none => s
  | some c => s.computeCoeffs c fs

/-- Step 4 of `TICK`, and the response (R248). -/
def State.tickPost (s : State) : State := s.postCoeffs.finish (respond .ok 1)

/-- `TICK : fs` (R248): step 1 and, unless the command is cut, the steps after it. -/
def execTick (fs : Word) (s : State) : Result :=
  guarded s (Instr.tick fs).word
    [(s.cur != .B, .wrongPort), (s.pchg && s.params.snapshot.isNone, .unwritten)]
    (if !s.pchg then .next (s.finish (respond .ok 0))
    else if s.turn.split then .next (s.clearPchg.setBusy (.tickLatch fs))
    else .next ((s.clearPchg.latchSettings.tickDesign fs).tickPost))

/-! ## The analysis poll -/

/-- `n` rounds of phase 1 of `POLL`: `RFEED`, then `SPEC` (R250). -/
def Channel.pollFeeds (cfg : Config) (floorDb : Word) : Nat → Channel → Channel
  | 0, c => c
  | n + 1, c => Channel.pollFeeds cfg floorDb n (c.feed.analyse cfg floorDb)

/-- `n` rounds of phase 2 of `POLL`: `CGEN` (R250). -/
def Channel.pollCurves (F : NumFormat) (stride : Nat) (a : PollArgs) : Nat → Channel → Channel
  | 0, c => c
  | n + 1, c => Channel.pollCurves F stride a n (c.genCurve F stride a.bt a.bw a.bh a.binWidthHz a.floorDb)

/-- Phase 3 of `POLL` and the response (R250): `value[27]` says whether `CURVE[ch]` was replaced (R99). -/
def State.pollFinish (s : State) (c : Nat) : State :=
  let n3 := (s.chan c).cf.readable
  let curve := ((s.chan c).drainCurves n3).curve
  (s.modChan c fun x => x.drainCurves n3).finish
    (respondWith ((if 0 < n3 then 2 ^ 27 else 0) + curve.length) (wordsOfPoints curve))

/-- Phases 1 to 3 of `POLL` from its snapshot `n1` of the readable count (R250). -/
def State.pollRun (s : State) (a : PollArgs) (n1 : Nat) : State :=
  let s1 := s.modChan a.ch fun x => x.pollFeeds s.cfg a.floorDb n1
  let s2 := s1.modChan a.ch fun x => x.pollCurves s.cfg.num s.stride.toNat a x.mf.readable
  s2.pollFinish a.ch

/-- `POLL ch : fs, bx, by, bw, bh` (R250): the checks, the snapshot and, unless the command is cut, the phases. -/
def execPoll (ch : BitVec 4) (fs bx bt bw bh : Word) (s : State) : Result :=
  let w := (Instr.poll ch fs bx bt bw bh).word
  match s.channelSel ch with
  | none => .next (s.raise .badOperand w)
  | some c =>
    let x := s.chan c
    let a : PollArgs :=
      { ch := c, bx := bx, bt := bt, bw := bw, bh := bh
        binWidthHz := Numeric.div s.cfg.num fs (Numeric.ofRat s.cfg.num (x.size : Rat)), floorDb := s.floorDb }
    guarded s w
      [(s.cur != .B, .wrongPort),
        (x.ord.isNone || !x.sf.prepared || !x.mf.prepared || !x.cf.prepared, .notPrepared),
        (decide (x.size < x.sf.shape), .badOperand)]
      (if s.turn.split then .next (s.setBusy (.pollFeed a x.sf.readable))
      else .next (s.pollRun a x.sf.readable))

end Sys2Proof.Machine
end

