-- ==== Sys2Proof/Machine/Micro.lean ====
section
/-!
DEFINITION. The later micro-steps of a command in progress (R66). Each is one step of its port; steps of other
ports may fall between them.
-/

namespace Sys2Proof.Machine

/-- Run the next micro-step of the current port's command. -/
def State.microStep (s : State) : Micro → State
  | .pushCopy c x => (s.pushCopy c x).setBusy (.pushPublish c x.kind)
  | .pushPublish c kind => s.pushPublish c kind
  | .pullCopy c kind => s.setBusy (.pullFree c ((s.chan c).front kind))
  | .pullFree c x => s.pullFree c x
  | .feedCopy c => s.setBusy (.feedFree c ((s.chan c).sf.front []))
  | .feedFree c blk => s.feedFree c blk
  | .procRun n samples => s.runProc n samples
  | .tickLatch fs => s.latchSettings.setBusy (.tickDesign fs)
  | .tickDesign fs => (s.tickDesign fs).setBusy .tickPost
  | .tickPost => s.tickPost
  | .pollFeed a 0 => s.setBusy (.pollCurve a (s.chan a.ch).mf.readable)
  | .pollFeed a (n + 1) => (s.modChan a.ch fun x => x.feed).setBusy (.pollSpec a n)
  | .pollSpec a n => (s.modChan a.ch fun x => x.analyse s.cfg a.floorDb).setBusy (.pollFeed a n)
  | .pollCurve a 0 => s.pollFinish a.ch
  | .pollCurve a (n + 1) =>
    (s.modChan a.ch fun x =>
      x.genCurve s.cfg.num s.stride.toNat a.bt a.bw a.bh a.binWidthHz a.floorDb).setBusy (.pollCurve a n)

end Sys2Proof.Machine
end

