-- ==== Sys2Proof/Machine/Dispatch.lean ====
section
/-!
DEFINITION. One arm per instruction of spec/opcode_table.json.
-/

namespace Sys2Proof.Machine

def exec (i : Instr) (s : State) : Host.Outcome State Fault Refusal :=
  match i with
  -- ring buffer
  | .fprep ch k cap => Sys2Proof.Machine.execFprep ch k cap s
  | .fpush ch k item => Sys2Proof.Machine.execFpush ch k item s
  | .fpull ch k => Sys2Proof.Machine.execFpull ch k s
  | .favail ch k => Sys2Proof.Machine.execFavail ch k s
  | .fovf ch k => Sys2Proof.Machine.execFovf ch k s
  -- reassembler and spectral stage
  | .chord ch ord => Sys2Proof.Machine.execChord ch ord s
  | .rfeed ch => Sys2Proof.Machine.execRfeed ch s
  | .spec ch floorDb => Sys2Proof.Machine.execSpec ch floorDb s
  -- curve generator
  | .cgen ch bx bt bw bh binWidthHz floorDb => Sys2Proof.Machine.execCgen ch bx bt bw bh binWidthHz floorDb s
  | .cget ch => Sys2Proof.Machine.execCget ch s
  | .rdcrv ch => Sys2Proof.Machine.execRdcrv ch s
  -- filter chain
  | .ccoef fs => Sys2Proof.Machine.execCcoef fs s
  | .apply => Sys2Proof.Machine.execApply s
  | .proc n samples => Sys2Proof.Machine.execProc n samples s
  | .rdcoef => Sys2Proof.Machine.execRdcoef s
  -- parameter store, tick and poll
  | .wrr r v => Sys2Proof.Machine.execWrr r v s
  | .rdr r => Sys2Proof.Machine.execRdr r s
  | .snap => Sys2Proof.Machine.execSnap s
  | .tclr => Sys2Proof.Machine.execTclr s
  | .tick fs => Sys2Proof.Machine.execTick fs s
  | .poll ch fs bx bt bw bh => Sys2Proof.Machine.execPoll ch fs bx bt bw bh s

end Sys2Proof.Machine
end

