-- ==== Sys2Proof/Machine/Fetch.lean ====
section
/-!
DEFINITION. One agent's step (R21, R66): the next micro-step of its command in progress, or the next command of
its stream; and the environment's events.
-/

namespace Sys2Proof.Machine

/-- A step of the current port. A port with a command in progress takes its next micro-step. Otherwise the head
of its stream is decoded, its words are consumed, and the command runs; an illegal word is consumed alone and
raises `IllegalCommand` (R97, R100). A port with no command, or whose command has not arrived whole, has no step
to take and the turn changes nothing (R21, R62). -/
def State.portStep (s : State) : Result :=
  match (s.port s.cur).busy with
  | some m => .next (s.microStep m)
  | none =>
    match decode s.nch (s.port s.cur).stream with
    | .ok (i, rest) => exec i (s.setStream rest)
    | .error .noWord => .next s
    | .error (.payloadMissing _ _) => .next s
    | .error (.unknownOpcode w) =>
      .next ((s.setStream (s.port s.cur).stream.tail).raise .illegalCommand w)
    | .error (.unusedNotZero _ w) =>
      .next ((s.setStream (s.port s.cur).stream.tail).raise .illegalCommand w)

/-- Words arrive on a port (R21), and run in the order in which they arrived. That the software behind a port is one
thread, or several that take turns, is a duty of the environment (R310, R323) that the model assumes: to the block a
port is one in-order stream, whoever sends its words (notes/assumptions/14.md). -/
def State.receive (s : State) (p : Port) (ws : List Word) : State :=
  s.setPort p { s.port p with stream := (s.port p).stream ++ ws }

/-- Reset from outside (R300): every piece of state to its reset value, no response, empty streams. The parameters
stay, and so do the environment's further events. -/
def State.hardReset (s : State) : State := { State.resetFor s.cfg s.nch with sched := s.sched }

/-- The environment's event, then the agent's step where it gives one. -/
def State.event (s : State) : Event → Result
  | .turn p split => ({ s with turn := { port := p, split := split } }).portStep
  | .send p ws => .next (s.receive p ws)
  | .reset => .next s.hardReset

/-- A port that may issue the command of a word (R280). -/
def issuingPort (w : Word) : Port :=
  match selectOp w with
  | some .proc => .A
  | some .fpush => if kField w = 0 then .A else .B
  | some .wrr => if (regField w).toNat ≤ 8 then .H else .B
  | _ => .B

/-- The words of a command placed at the head of the stream of a port that may issue it, that port idle, and the
next step its own and whole. -/
def State.place (s : State) (ws : List Word) : State :=
  let p := issuingPort (ws.headD 0)
  { s.setPort p { s.port p with stream := ws ++ (s.port p).stream, busy := none } with
    sched := .turn p false :: s.sched }

end Sys2Proof.Machine
end

