-- ==== Sys2Proof/Machine/Step.lean ====
section
/-!
DEFINITION. One step of the machine: the environment's next event (R66).
-/

namespace Sys2Proof.Machine

/-- The next event of the schedule. A run is the total order of steps the schedule gives (R66); without a next
event it is over. -/
def step (s : State) : Host.Outcome State Fault Refusal :=
  match s.sched with
  | [] => .fault .endOfRun
  | e :: es => State.event { s with sched := es } e

/-- The state with the instruction whose bits are `w` placed where the next step fetches it. -/
def State.withFetchWord (s : State) (nbits w : Nat) : State := s.place (tableWords s.nch nbits w)

end Sys2Proof.Machine
end

