-- ==== Sys2Proof/Reference.lean ====
section
/-!
DEFINITION. The reference semantics of R12: the functions the machine evaluates in its number format, read over the
extended reals with `rnd` the identity. No part of the machine: what the spec states of the exact formulas is stated
over it.
-/

namespace Sys2Proof.Reference

open Sys2Proof.Machine

/-! ## The number formats of the reference semantics -/

/-- The real functions of R11 and the product with pi (R13). -/
noncomputable def realFn : RealFn → ℝ → ℝ
  | .piMul, x => Real.pi * x
  | .sqrt, x => Real.sqrt x
  | .sin, x => Real.sin x
  | .cos, x => Real.cos x
  | .tan, x => Real.tan x
  | .log10, x => Real.log x / Real.log 10
  | .pow10, x => (10 : ℝ) ^ x

/-- The extended reals of R11, stored exactly: `rnd` is the identity (R12). -/
noncomputable def format : NumberFormat ℝ (Extended ℝ) where
  value := id
  rnd := id
  rndReal f x := .fin (realFn f x)

/-- The primitives of R11 over the extended reals. `toDb`, `genPath`, `design`, `processSamples` and the other units at
this table are the reference semantics of those rules. -/
noncomputable def arithExt : Arith (Extended ℝ) := format.arith

/-- The primitives on finite reals inside their domains, without the infinities and `NaN`. -/
noncomputable def arith : Arith ℝ where
  ofRat q := (q : ℝ)
  piMul x := Real.pi * x
  add x y := x + y
  sub x y := x - y
  mul x y := x * y
  div x y := x / y
  sqrt := Real.sqrt
  sin := Real.sin
  cos := Real.cos
  tan := Real.tan
  log10 x := Real.log x / Real.log 10
  pow10 x := (10 : ℝ) ^ x
  finite _ := true
  isNan _ := false
  lt x y := decide (x < y)
  le x y := decide (x ≤ y)

/-- Whether a word that an implementation stores is within `TOL` of a reference value (R12, U6). DESIGN CHOICE
(notes/assumptions/15.md): the spec gives the tolerance no measure; here it is the absolute distance of finite values,
and an infinity or a `NaN` is met by itself alone. -/
def Meets (cfg : Config) (w : Word) : Extended ℝ → Prop
  | .fin x => ∃ q : ℚ, Numeric.value cfg.num w = .fin q ∧ |(q : ℝ) - x| ≤ cfg.tol
  | .posInf => Numeric.value cfg.num w = .posInf
  | .negInf => Numeric.value cfg.num w = .negInf
  | .nan => Numeric.value cfg.num w = .nan

/-! ## The transform (R153) -/

/-- `2*PI*k*n/N`. -/
def dftAngle {α : Type} (A : Arith α) (N k n : Nat) : α :=
  A.div (A.mul (A.mul (A.piMul (A.ofRat 2)) (A.ofNat k)) (A.ofNat n)) (A.ofNat N)

/-- The sum over `n` of `x[n] * f(2*PI*k*n/N)`. -/
def dftTerm {α : Type} (A : Arith α) (f : α → α) (k : Nat) (xs : List α) : α :=
  (List.zipWith (fun n x => A.mul x (f (dftAngle A xs.length k n))) (List.range xs.length) xs).foldl A.add (A.ofRat 0)

/-- `mag[0..N/2-1]` of R153, formula by formula. -/
def fftmag {α : Type} (A : Arith α) (xs : List α) : List α :=
  (List.range (xs.length / 2)).map fun k =>
    let re := dftTerm A A.cos k xs
    let im := A.sub (A.ofRat 0) (dftTerm A A.sin k xs)
    A.sqrt (A.add (A.mul re re) (A.mul im im))

/-- The reference Magnitude Spectrum of a sample window (R160). -/
noncomputable def spectrum (kind : WindowKind) (win : List (Extended ℝ)) (floorDb : Extended ℝ) : List (Extended ℝ) :=
  spectrumWith arithExt kind (fftmag arithExt) win.length win floorDb

/-! ## One stage of the chain -/

/-- The outputs of one stage from state (s1, s2) on a list of inputs, by the step of R216. -/
noncomputable def outputs (c : Biquad ℝ) : ℝ → ℝ → List ℝ → List ℝ
  | _, _, [] => []
  | s1, s2, x :: xs =>
    let r := biquad arith c s1 s2 x
    r.1 :: outputs c r.2.1 r.2.2 xs

/-- The outputs of the recurrence of R201, given the two inputs and the two outputs before the list. -/
noncomputable def recurrence (c : Biquad ℝ) : ℝ → ℝ → ℝ → ℝ → List ℝ → List ℝ
  | _, _, _, _, [] => []
  | x1, x2, y1, y2, x :: xs =>
    let y := c.b0 * x + c.b1 * x1 + c.b2 * x2 - c.a1 * y1 - c.a2 * y2
    y :: recurrence c x x1 y y1 xs

end Sys2Proof.Reference
end

