-- ==== Sys2Proof/Safety.lean ====
section
/-!
DEFINITION. What claims are stated in: the invariants of the state, the commands each port may issue (R280), and a
safe run.
-/

namespace Sys2Proof.Machine

/-! ## Ring buffers (R35, R43) -/

/-- A FIFO is prepared with a legal capacity and its readable count is in [0, C] (R43), or it is as after reset. -/
def Fifo.Ok {α : Type} (cmax : Nat) (q : Fifo α) : Prop :=
  if q.prepared then
    0 < q.cap ∧ q.cap ≤ cmax ∧ q.slots.length = q.cap ∧ q.rd ≤ q.wr ∧ q.wr ≤ q.rd + q.cap ∧ q.ovf < 2 ^ 28
  else
    q.cap = 0 ∧ q.shape = 0 ∧ q.wr = 0 ∧ q.rd = 0 ∧ q.slots = [] ∧ q.ovf = 0

/-- A prepared FIFO whose cursors an implementation with counters of `cw` bits can still tell apart (R121, U5): its
capacity divides `2^cw`, or fewer than `2^cw` elements have been pushed since it was prepared. -/
def Fifo.CursorsFit {α : Type} (cw : Nat) (q : Fifo α) : Prop :=
  q.prepared = true → q.cap ∣ 2 ^ cw ∨ q.wr < 2 ^ cw

/-- The elements queued in a FIFO, oldest first (R121). -/
def Fifo.queued {α : Type} (d : α) (q : Fifo α) : List α :=
  (List.range q.readable).map fun i => q.slots.getD ((q.rd + i) % q.cap) d

/-- Every FIFO of a channel is well formed. -/
def Channel.FifosOk (cmax : Nat) (c : Channel) : Prop := c.sf.Ok cmax ∧ c.mf.Ok cmax ∧ c.cf.Ok cmax

/-- The states that an implementation with the parameter `CW` is held to (R121, R319). -/
def State.CursorsFit (s : State) : Prop := ∀ c ∈ s.chans, ∀ k, (c.fifo k).CursorsFit s.cfg.cw

/-- The FIFO of a kind on a channel is prepared and not full. -/
def State.CanPush (s : State) (ch : Nat) (k : FifoKind) : Prop :=
  ch < s.nch ∧ ((s.chan ch).fifo k).prepared = true ∧ ((s.chan ch).fifo k).full = false

/-- The FIFO of a kind on a channel is prepared and has at least `n` elements to pull. -/
def State.CanPull (s : State) (ch : Nat) (k : FifoKind) (n : Nat) : Prop :=
  ch < s.nch ∧ ((s.chan ch).fifo k).prepared = true ∧ n ≤ ((s.chan ch).fifo k).readable

/-- What holds while agent A's command in progress waits for its next micro-step: it is a push into a sample
FIFO that has room, or a `PROC`. -/
def State.MicroOkA (s : State) : Micro → Prop
  | .pushCopy ch (.samples _) => s.CanPush ch .sf
  | .pushCopy _ (.spectrum _) => False
  | .pushCopy _ (.curve _) => False
  | .pushPublish ch .sf => s.CanPush ch .sf
  | .pushPublish _ .mf => False
  | .pushPublish _ .cf => False
  | .procRun _ _ => True
  | .pullCopy _ _ => False
  | .pullFree _ _ => False
  | .feedCopy _ => False
  | .feedFree _ _ => False
  | .tickLatch _ => False
  | .tickDesign _ => False
  | .tickPost => False
  | .pollFeed _ _ => False
  | .pollSpec _ _ => False
  | .pollCurve _ _ => False

/-- What holds while agent B's command in progress waits for its next micro-step. -/
def State.MicroOkB (s : State) : Micro → Prop
  | .pushCopy ch x => x.kind ≠ .sf ∧ s.CanPush ch x.kind
  | .pushPublish ch k => k ≠ .sf ∧ s.CanPush ch k
  | .procRun _ _ => False
  | .pullCopy ch k => s.CanPull ch k 1
  | .pullFree ch x => s.CanPull ch x.kind 1
  | .feedCopy ch => s.CanPull ch .sf 1
  | .feedFree ch _ => s.CanPull ch .sf 1
  | .tickLatch _ => True
  | .tickDesign _ => True
  | .tickPost => True
  | .pollFeed a n => s.CanPull a.ch .sf n ∧ s.CanPull a.ch .mf 0 ∧ s.CanPull a.ch .cf 0
  | .pollSpec a n => s.CanPull a.ch .sf n ∧ s.CanPull a.ch .mf 0 ∧ s.CanPull a.ch .cf 0
  | .pollCurve a n => s.CanPull a.ch .mf n ∧ s.CanPull a.ch .cf 0

/-- The FIFO invariant (R43) with what it needs of the commands in progress: every FIFO is well formed, and each
agent's command in progress still finds what it found at its first micro-step. -/
def State.FifoInv (s : State) : Prop :=
  (∀ c ∈ s.chans, c.FifosOk s.cfg.cmax) ∧
    (∀ m, s.ports.a.busy = some m → s.MicroOkA m) ∧
    (∀ m, s.ports.b.busy = some m → s.MicroOkB m) ∧
    s.ports.h.busy = none

/-! ## Registers and the fault record (R25, R41) -/

/-- The configuration registers hold legal values (R25). -/
def State.ConfigRegsOk (s : State) : Prop :=
  Numeric.finite s.cfg.num s.floorDb = true ∧ 1 ≤ s.stride.toNat ∧ s.stride.toNat ≤ 4096 ∧
    ∀ n, s.blkLen = some n → 1 ≤ n.toNat ∧ n.toNat ≤ 8192

/-- The parameters are in the ranges of R7. No step changes them. -/
def State.ParamsOk (s : State) : Prop := s.cfg.Ok s.nch

/-- `ERR` records a cause of R271 and a port, or is as after reset (R41). -/
def Err.Ok (e : Err) : Prop :=
  if e.valid then 1 ≤ e.cause.toNat ∧ e.cause.toNat ≤ 5 ∧ e.port.toNat ≤ 2
  else e.cause = 0 ∧ e.port = 0 ∧ e.word = 0

/-- The sample window has the transform size while there is an order, and does not exist otherwise (R37). -/
def Channel.WindowOk (c : Channel) : Prop := c.win.length = c.size

/-- Every element of a channel has the shape of its FIFO, and the shape of `MF` is the one its order gives
(R36, R37, R39, R122). -/
def Channel.ShapesOk (c : Channel) : Prop :=
  c.WindowOk ∧ (∀ xs ∈ c.sf.slots, xs.length = c.sf.shape) ∧ (∀ db ∈ c.mf.slots, db.length = c.mf.shape) ∧
    (c.mf.prepared = true → ∃ o, c.ord = some o ∧ c.mf.shape = o.size / 2) ∧
    (∀ ps ∈ c.cf.slots, ps.length ≤ pmax) ∧ c.curve.length ≤ pmax

/-- An element has the shape of the channel's FIFO of its kind. -/
def Channel.Fits (c : Channel) : Item → Prop
  | .samples xs => xs.length = c.sf.shape
  | .spectrum db => db.length = c.mf.shape
  | .curve ps => ps.length ≤ pmax

/-- What the element shapes need of a command in progress. -/
def State.MicroFits (s : State) : Micro → Prop
  | .pushCopy ch x => (s.chan ch).Fits x
  | .pushPublish _ _ => True
  | .pullCopy _ _ => True
  | .pullFree _ _ => True
  | .feedCopy ch => (s.chan ch).sf.shape ≤ (s.chan ch).size
  | .feedFree ch blk => blk.length ≤ (s.chan ch).size
  | .procRun _ _ => True
  | .tickLatch _ => True
  | .tickDesign _ => True
  | .tickPost => True
  | .pollFeed a _ => (s.chan a.ch).sf.shape ≤ (s.chan a.ch).size
  | .pollSpec a _ => (s.chan a.ch).sf.shape ≤ (s.chan a.ch).size
  | .pollCurve _ _ => True

/-- The shape invariant, with what it needs of the commands in progress. -/
def State.ShapeInv (s : State) : Prop :=
  (∀ c ∈ s.chans, c.ShapesOk) ∧ (∀ m, s.ports.a.busy = some m → s.MicroFits m) ∧
    (∀ m, s.ports.b.busy = some m → s.MicroFits m)

/-! ## Commands and ports (R280) -/

/-- The selectors of a command name a channel, a FIFO or a register the block has and, for a write, may write. -/
def selectorsOk (i : Instr) (s : State) : Bool :=
  match i with
  | .fprep ch k _ => (s.fifoSel ch k).isSome
  | .fpush ch k _ => (s.fifoSel ch k).isSome
  | .fpull ch k => (s.fifoSel ch k).isSome
  | .favail ch k => (s.fifoSel ch k).isSome
  | .fovf ch k => (s.fifoSel ch k).isSome
  | .chord ch _ => (s.channelSel ch).isSome
  | .rfeed ch => (s.channelSel ch).isSome
  | .spec ch _ => (s.channelSel ch).isSome
  | .cgen ch _ _ _ _ _ _ => (s.channelSel ch).isSome
  | .cget ch => (s.channelSel ch).isSome
  | .rdcrv ch => (s.channelSel ch).isSome
  | .ccoef _ => true
  | .apply => true
  | .proc _ _ => true
  | .rdcoef => true
  | .wrr r _ => match regOf s.nch r with
    | none => false
    | some reg => reg.group != .readOnly
  | .rdr r => (regOf s.nch r).isSome
  | .snap => true
  | .tclr => true
  | .tick _ => true
  | .poll ch _ _ _ _ _ => (s.channelSel ch).isSome

/-- The table of R280, read by command: whether a port may issue it. -/
def legalOn (i : Instr) (p : Port) : Bool :=
  match i with
  | .fprep _ _ _ => p == .B
  | .fpush _ k _ => if k = 0 then p == .A else p == .B
  | .fpull _ _ => p == .B
  | .favail _ k => if k = 0 then p == .A || p == .B else p == .B
  | .fovf _ _ => true
  | .chord _ _ => p == .B
  | .rfeed _ => p == .B
  | .spec _ _ => p == .B
  | .cgen _ _ _ _ _ _ _ => p == .B
  | .cget _ => p == .B
  | .rdcrv _ => p == .B
  | .ccoef _ => p == .B
  | .apply => p == .B
  | .proc _ _ => p == .A
  | .rdcoef => p == .B
  | .wrr r _ => if r.toNat ≤ 0x08 then p == .H else p == .B
  | .rdr _ => true
  | .snap => p == .B
  | .tclr => p == .B
  | .tick _ => p == .B
  | .poll _ _ _ _ _ _ => p == .B

/-! ## The checks of a command by their class (R273) -/

/-- The FIFO a selector names, without its slots. -/
def State.fifoAt (s : State) (ch : BitVec 4) (k : BitVec 2) : Fifo Unit :=
  match fifoKind k with
  | none => Fifo.unprepared Unit
  | some kind => (s.chan ch.toNat).fifo kind

/-- The set-up state a command needs exists (cause 4 of R271). -/
def preparedOk (i : Instr) (s : State) : Bool :=
  match i with
  | .fprep ch k _ => k != 1 || (s.chan ch.toNat).ord.isSome
  | .fpush ch k _ => (s.fifoAt ch k).prepared
  | .fpull ch k => (s.fifoAt ch k).prepared
  | .favail ch k => (s.fifoAt ch k).prepared
  | .fovf _ _ => true
  | .chord _ _ => true
  | .rfeed ch => (s.chan ch.toNat).sf.prepared && (s.chan ch.toNat).ord.isSome
  | .spec ch _ => (s.chan ch.toNat).ord.isSome && (s.chan ch.toNat).mf.prepared
  | .cgen ch _ _ _ _ _ _ =>
    (s.chan ch.toNat).ord.isSome && (s.chan ch.toNat).mf.prepared && (s.chan ch.toNat).cf.prepared
  | .cget ch => (s.chan ch.toNat).cf.prepared
  | .rdcrv _ => true
  | .ccoef _ => s.settings.isSome
  | .apply => s.newc.isSome
  | .proc _ _ => true
  | .rdcoef => s.newc.isSome
  | .wrr _ _ => true
  | .rdr _ => true
  | .snap => true
  | .tclr => true
  | .tick _ => true
  | .poll ch _ _ _ _ _ =>
    (s.chan ch.toNat).ord.isSome && (s.chan ch.toNat).sf.prepared && (s.chan ch.toNat).mf.prepared &&
      (s.chan ch.toNat).cf.prepared

/-- The registers a command reads hold a value (cause 5 of R271). -/
def writtenOk (i : Instr) (s : State) : Bool :=
  match i with
  | .fprep _ k _ => k != 0 || s.blkLen.isSome
  | .rdr r => match regOf s.nch r with
    | none => true
    | some reg => (s.readReg reg).isSome
  | .snap => s.params.snapshot.isSome
  | .tick _ => !s.pchg || s.params.snapshot.isSome
  | .fpush _ _ _ => true
  | .fpull _ _ => true
  | .favail _ _ => true
  | .fovf _ _ => true
  | .chord _ _ => true
  | .rfeed _ => true
  | .spec _ _ => true
  | .cgen _ _ _ _ _ _ _ => true
  | .cget _ => true
  | .rdcrv _ => true
  | .ccoef _ => true
  | .apply => true
  | .proc _ _ => true
  | .rdcoef => true
  | .wrr _ _ => true
  | .tclr => true
  | .poll _ _ _ _ _ _ => true

/-- The operands that are no selectors are in range (cause 3 of R271, the last class of R273). -/
def operandsOk (i : Instr) (s : State) : Bool :=
  match i with
  | .fprep _ _ cap => cap != 0 && decide (cap.toNat ≤ s.cfg.cmax)
  | .fpush ch k item => match fifoKind k with
    | none => true
    | some kind => (itemOfPayload kind (s.fifoAt ch k).shape item).isSome
  | .chord _ ord => ord == 11 || ord == 12 || ord == 13
  | .rfeed ch => decide ((s.chan ch.toNat).sf.shape ≤ (s.chan ch.toNat).size)
  | .spec _ floorDb => Numeric.finite s.cfg.num floorDb
  | .cgen _ _ _ _ _ _ floorDb => Numeric.finite s.cfg.num floorDb
  | .wrr r v => match regOf s.nch r with
    | none => true
    | some reg => !s.badRegValue reg v
  | .poll ch _ _ _ _ _ => decide ((s.chan ch.toNat).sf.shape ≤ (s.chan ch.toNat).size)
  | .fpull _ _ => true
  | .favail _ _ => true
  | .fovf _ _ => true
  | .cget _ => true
  | .rdcrv _ => true
  | .ccoef _ => true
  | .apply => true
  | .proc _ _ => true
  | .rdcoef => true
  | .rdr _ => true
  | .snap => true
  | .tclr => true
  | .tick _ => true

/-- The cause a decoded command is refused with, by the priority of R273; `none` where no check fires. -/
def causeOf (i : Instr) (s : State) : Option Cause :=
  if selectorsOk i s = false then some .badOperand
  else if legalOn i s.cur = false then some .wrongPort
  else if preparedOk i s = false then some .notPrepared
  else if writtenOk i s = false then some .unwritten
  else if operandsOk i s = false then some .badOperand
  else none

/-! ## Runs -/

/-- Whole commands of one port, one after another; `none` where one does not answer a next state. -/
def runCommands : List Instr → State → Option State
  | [], s => some s
  | i :: is, s =>
    match exec i s with
    | .next t => runCommands is t
    | .fault _ => none
    | .refused _ => none

/-- Pushes (`some x`) and pulls (`none`) on a FIFO in any order: the FIFO they leave, the elements accepted, and
the elements pulled, each oldest first. -/
def Fifo.runOps {α : Type} (d : α) : List (Option α) → Fifo α → Fifo α × List α × List α
  | [], q => (q, [], [])
  | some x :: ops, q =>
    let r := runOps d ops (q.push x)
    if q.full then r else (r.1, x :: r.2.1, r.2.2)
  | none :: ops, q =>
    if q.readable = 0 then runOps d ops q
    else
      let r := runOps d ops q.free
      (r.1, r.2.1, q.front d :: r.2.2)

/-- Up to `n` micro-steps of the current port's command in progress, one after another. -/
def State.settle : Nat → State → State
  | 0, s => s
  | n + 1, s =>
    match (s.port s.cur).busy with
    | none => s
    | some m => (s.microStep m).settle n

/-- No refusal fault has been recorded (R275). -/
def State.clean (s : State) : Prop := s.err.valid = false

/-- A run of `n` steps is safe when it ends in a next state: it met no refusal and the schedule lasted. -/
def State.SafeFor (n : Nat) (s : State) : Prop := ∃ t, Host.Core.run core n s = .next t

end Sys2Proof.Machine
end

