-- ==== Sys2Proof/Certificates/Slice0/Obligations.lean ====
section
/-!
DEFINITION. The statements for the provers. Each docstring names the rule of spec/ it formalises.
-/

open Sys2Proof Sys2Proof.Machine

/-! ## Encoding -/

/-- R90, R91, R92, R95, R97: decoding the words of a well-formed command gives it back, with every field and payload
word, and leaves the words after it. -/
def Obligations.DecodeEncode : Prop :=
  ∀ (nch : Nat) (i : Instr) (rest : List Word), i.WellFormed nch = true →
    decode nch (encode i ++ rest) = .ok (i, rest)

/-- R90, R97, R100, R101: what decodes is a well-formed command, and its words are exactly its encoding. -/
def Obligations.DecodeSound : Prop :=
  ∀ (nch : Nat) (ws rest : List Word) (i : Instr), decode nch ws = .ok (i, rest) →
    i.WellFormed nch = true ∧ ws = encode i ++ rest

/-- R96: the rows of the table, and a word selects a command exactly when `w & mask = match`. -/
def Obligations.MatchAndMask : Prop :=
  Op.all.map (fun o => (o.matchWord, o.mask)) =
      [(0x10000000#32, 0xFF000000#32), (0x11000000#32, 0xFF000000#32), (0x12000000#32, 0xFF03FFFF#32),
        (0x13000000#32, 0xFF03FFFF#32), (0x14000000#32, 0xFF03FFFF#32), (0x20000000#32, 0xFF0C0000#32),
        (0x21000000#32, 0xFF0FFFFF#32), (0x22000000#32, 0xFF0FFFFF#32), (0x30000000#32, 0xFF0FFFFF#32),
        (0x31000000#32, 0xFF0FFFFF#32), (0x32000000#32, 0xFF0FFFFF#32), (0x40000000#32, 0xFFFFFFFF#32),
        (0x41000000#32, 0xFFFFFFFF#32), (0x42000000#32, 0xFFFC0000#32), (0x43000000#32, 0xFFFFFFFF#32),
        (0x50000000#32, 0xFFFFFF00#32), (0x51000000#32, 0xFFFFFF00#32), (0x52000000#32, 0xFFFFFFFF#32),
        (0x53000000#32, 0xFFFFFFFF#32), (0x54000000#32, 0xFFFFFFFF#32), (0x55000000#32, 0xFF0FFFFF#32)] ∧
    ∀ (w : Word) (o : Op), selectOp w = some o ↔ w &&& o.mask = o.matchWord

/-- R95, spec/95_test_vectors.md: words written out from the encoding decode to the commands they stand for. -/
def Obligations.SpecEncodings : Prop :=
  decode 2 [0x10140010#32] = .ok (.fprep 1 1 16, []) ∧
    decode 2 [0x11080003#32, 1#32, 0x3F800000#32, 0x40000000#32] =
      .ok (.fpush 0 2 [1#32, 0x3F800000#32, 0x40000000#32], []) ∧
    decode 2 [0x120C0000#32] = .ok (.fpull 0 3, []) ∧
    decode 2 [0x12F00000#32] = .ok (.fpull 15 0, []) ∧
    decode 2 [0x2010000C#32] = .ok (.chord 1 12, []) ∧
    decode 2 [0x22000000#32, 0xC2400000#32] = .ok (.spec 0 0xC2400000#32, []) ∧
    decode 2 [0x30000000#32, 0#32, 1#32, 0x43960000#32, 0x42C80000#32, 0x41BB8000#32, 0xC2400000#32] =
      .ok (.cgen 0 0#32 1#32 0x43960000#32 0x42C80000#32 0x41BB8000#32 0xC2400000#32, []) ∧
    decode 2 [0x40000000#32, 0x473B8000#32] = .ok (.ccoef 0x473B8000#32, []) ∧
    decode 2 [0x42000001#32, 0x3F800000#32, 0x40000000#32] = .ok (.proc 1 [0x3F800000#32, 0x40000000#32], []) ∧
    decode 2 [0x50000011#32, 1#32] = .ok (.wrr 0x11 1#32, []) ∧
    decode 2 [0x51000020#32] = .ok (.rdr 0x20, []) ∧
    decode 2 [0x55000000#32, 0x473B8000#32, 2#32, 3#32, 4#32, 5#32] = .ok (.poll 0 0x473B8000#32 2#32 3#32 4#32 5#32, []) ∧
    decode 2 [0x12000001#32] = .error (.unusedNotZero .fpull 0x12000001#32) ∧
    decode 2 [0x2004000B#32] = .error (.unusedNotZero .chord 0x2004000B#32) ∧
    decode 2 [0x15000000#32] = .error (.unknownOpcode 0x15000000#32)

/-- R97, R100, R272: a word that matches no row is consumed alone and raises `IllegalCommand`; the all-zero and
the all-ones words match none; a word that matches a row is never a decoding error, whatever its operands. -/
def Obligations.IllegalWords : Prop :=
  (∀ (s : State) (p : Port) (sp : Bool) (es : List Event) (w : Word) (rest : List Word),
      s.sched = .turn p sp :: es → (s.port p).busy = none → (s.port p).stream = w :: rest →
      (∀ o : Op, w &&& o.mask ≠ o.matchWord) →
      step s = .next { s with
        sched := es
        turn := { port := p, split := sp }
        err := if s.err.valid then s.err else { valid := true, cause := 1, port := p.code, word := w }
        ports := s.ports.set p
          { stream := rest, pc := (s.port p).pc + 1, busy := none
            out := { status := .fault, value := 1, payload := [] } :: (s.port p).out } }) ∧
    (∀ o : Op, 0x00000000#32 &&& o.mask ≠ o.matchWord ∧ 0xFFFFFFFF#32 &&& o.mask ≠ o.matchWord) ∧
    ∀ (nch : Nat) (w : Word) (rest : List Word) (o : Op), w &&& o.mask = o.matchWord →
      (∃ i ws, decode nch (w :: rest) = .ok (i, ws)) ∨
        ∃ n, decode nch (w :: rest) = .error (.payloadMissing o n) ∧ rest.length < n

/-- R61: a word is sent least significant byte first, the words of a byte stream are those that were sent, and a
binary32 word is its IEEE 754 pattern: sign bit 31, exponent bits 30:23, fraction bits 22:0. -/
def Obligations.WordFormats : Prop :=
  (∀ w : Word, serialise [w] =
      [w.extractLsb' 0 8, w.extractLsb' 8 8, w.extractLsb' 16 8, w.extractLsb' 24 8]) ∧
    (∀ ws : List Word, deserialise (serialise ws) = ws) ∧
    ∀ w : Word,
      let sg : ℚ := if w.getLsbD 31 then -1 else 1
      let e := (w.extractLsb' 23 8).toNat
      let f := (w.extractLsb' 0 23).toNat
      (e = 255 → f = 0 → Numeric.value .binary32 w = if w.getLsbD 31 then .negInf else .posInf) ∧
        (e = 255 → f ≠ 0 → Numeric.value .binary32 w = .nan) ∧
        (0 < e → e < 255 →
          Numeric.value .binary32 w = .fin (sg * (2 ^ 23 + (f : ℚ)) * (2 : ℚ) ^ ((e : ℤ) - 150))) ∧
        (e = 0 → Numeric.value .binary32 w = .fin (sg * (f : ℚ) * (2 : ℚ) ^ (-149 : ℤ)))

/-- R12: binary32 rounding takes the nearest value, of two equally near the even one, and overflows to an infinity. -/
def Obligations.Binary32RoundsToNearestEven : Prop :=
  ∀ q : ℚ,
    (|q| < 2 ^ 128 - 2 ^ 103 →
      ∃ v : ℚ, Numeric.value .binary32 (Numeric.ofRat .binary32 q) = .fin v ∧
        ∀ (w : Word) (u : ℚ), Numeric.value .binary32 w = .fin u →
          |q - v| ≤ |q - u| ∧ (|q - v| = |q - u| → u ≠ v → (Numeric.ofRat .binary32 q).getLsbD 0 = false)) ∧
      (2 ^ 128 - 2 ^ 103 ≤ |q| →
        Numeric.value .binary32 (Numeric.ofRat .binary32 q) = if q < 0 then .negInf else .posInf)

/-! ## Steps -/

/-- R21, R62, R66: the steps of the machine. A turn of a port with no command in progress whose stream decodes runs
that command with its words consumed; a port with a command in progress takes its next micro-step; a port with no
whole command has nothing to do; words arrive at the end of a stream; without a next event the run is over. -/
def Obligations.StepRunsDecoded : Prop :=
  (∀ (s : State) (p : Port) (sp : Bool) (es : List Event) (i : Instr) (rest : List Word),
      s.sched = .turn p sp :: es → (s.port p).busy = none → decode s.nch (s.port p).stream = .ok (i, rest) →
      step s = exec i { s with
        sched := es
        turn := { port := p, split := sp }
        ports := s.ports.set p
          { stream := rest, pc := (s.port p).pc, busy := none, out := (s.port p).out } }) ∧
    (∀ (s : State) (p : Port) (sp : Bool) (es : List Event) (m : Micro),
      s.sched = .turn p sp :: es → (s.port p).busy = some m →
      step s = .next (State.microStep { s with sched := es, turn := { port := p, split := sp } } m)) ∧
    (∀ (s : State) (p : Port) (sp : Bool) (es : List Event) (e : DecodeError),
      s.sched = .turn p sp :: es → (s.port p).busy = none → decode s.nch (s.port p).stream = .error e →
      (e = .noWord ∨ ∃ o n, e = .payloadMissing o n) →
      step s = .next { s with sched := es, turn := { port := p, split := sp } }) ∧
    (∀ (s : State) (p : Port) (ws : List Word) (es : List Event), s.sched = .send p ws :: es →
      step s = .next { s with
        sched := es
        ports := s.ports.set p { s.port p with stream := (s.port p).stream ++ ws } }) ∧
    ∀ s : State, s.sched = [] → step s = .fault .endOfRun

/-- R44, R300: what reset leaves. The environment's events and the parameters are no state of the block; that they
stay, and the values of `turn` and `freeCtr`, are the model's (notes/assumptions/1.md, 5.md). -/
def Obligations.ResetValues : Prop :=
  ∀ (s : State) (es : List Event), s.sched = .reset :: es → ∃ t, step s = .next t ∧ t.cfg = s.cfg ∧ t.nch = s.nch ∧
    t.sched = es ∧
    t.params = { peakFreq := none, peakGain := none, peakQ := none, loCutFreq := none, hiCutFreq := none
                 loCutSlope := none, hiCutSlope := none, bypass := none, anEn := none } ∧
    t.floorDb = Numeric.ofRat s.cfg.num (-48) ∧ t.stride = 2 ∧ t.blkLen = none ∧ t.pchg = false ∧
    t.settings = none ∧ t.newc = none ∧ t.mbox = none ∧
    (let one := Numeric.ofRat s.cfg.num 1
     let zero := Numeric.ofRat s.cfg.num 0
     let st : Stage Word := { co := { b0 := one, b1 := zero, b2 := zero, a1 := zero, a2 := zero }, byp := true }
     t.act =
      { stage := { lc0 := st, lc1 := st, lc2 := st, lc3 := st, pk := st, hc0 := st, hc1 := st, hc2 := st, hc3 := st }
        gbypLC := true, gbypPK := true, gbypHC := true }) ∧
    (∀ c ∈ t.chans,
      (∀ k, c.fifo k =
        { prepared := false, cap := 0, shape := 0, wr := 0, rd := 0, slots := [], ovf := 0 }) ∧
      c.sf.slots = [] ∧ c.mf.slots = [] ∧ c.cf.slots = [] ∧ c.ord = none ∧ c.win = [] ∧ c.curve = [] ∧
      c.z = Nine.const { s1 := Numeric.ofRat s.cfg.num 0, s2 := Numeric.ofRat s.cfg.num 0 }) ∧
    t.err = { valid := false, cause := 0, port := 0, word := 0 } ∧
    ∀ p, t.port p = { stream := [], pc := 0, busy := none, out := [] }

/-- R21, R66, R98: a command or a micro-step touches no other port and no stream; it ends its command with exactly one
response and `pc + 1`, or leaves it in progress without a response. -/
def Obligations.OneResponsePerCommand : Prop :=
  (∀ (i : Instr) (s t : State), exec i s = .next t →
      (∀ p, p ≠ s.cur → t.port p = s.port p) ∧ (t.port s.cur).stream = (s.port s.cur).stream ∧
        (((t.port s.cur).busy = none ∧ (t.port s.cur).pc = (s.port s.cur).pc + 1 ∧
            ∃ r, (t.port s.cur).out = r :: (s.port s.cur).out) ∨
          ((t.port s.cur).busy ≠ none ∧ (t.port s.cur).pc = (s.port s.cur).pc ∧
            (t.port s.cur).out = (s.port s.cur).out))) ∧
    ∀ (m : Micro) (s : State),
      (∀ p, p ≠ s.cur → (s.microStep m).port p = s.port p) ∧
        ((s.microStep m).port s.cur).stream = (s.port s.cur).stream ∧
        ((((s.microStep m).port s.cur).busy = none ∧ ((s.microStep m).port s.cur).pc = (s.port s.cur).pc + 1 ∧
            ∃ r, ((s.microStep m).port s.cur).out = r :: (s.port s.cur).out) ∨
          (((s.microStep m).port s.cur).busy ≠ none ∧ ((s.microStep m).port s.cur).pc = (s.port s.cur).pc ∧
            ((s.microStep m).port s.cur).out = (s.port s.cur).out))

/-! ## Refusal faults -/

/-- R272, R275: a refused command changes nothing but `ERR`, which latches the first fault after reset; its words are
consumed, it answers `FAULT` with the cause code and no payload, and its port goes on. -/
def Obligations.RefusedCommand : Prop :=
  ∀ (s : State) (p : Port) (sp : Bool) (es : List Event) (i : Instr) (rest : List Word) (c : Cause),
    s.sched = .turn p sp :: es → (s.port p).busy = none → decode s.nch (s.port p).stream = .ok (i, rest) →
    causeOf i { s with turn := { port := p, split := sp } } = some c →
    step s = .next { s with
      sched := es
      turn := { port := p, split := sp }
      err := if s.err.valid then s.err else { valid := true, cause := c.code, port := p.code, word := i.word }
      ports := s.ports.set p
        { stream := rest, pc := (s.port p).pc + 1, busy := none
          out := { status := .fault, value := c.code.setWidth 28, payload := [] } :: (s.port p).out } }

/-- R220, R271, R273: the checks of R273 are all there are. A command none of whose checks fires answers no `FAULT` and
leaves `ERR` alone; the one command that does not run then is an `FPREP SF[ch]` between the steps of an
`FPUSH SF[ch]` (R311). That `CCOEF` and `TICK` complete outside the domain of R202, where the spec says that a model
refuses them, is the model's choice (notes/assumptions/5.md). -/
def Obligations.UnrefusedCommand : Prop :=
  ∀ (i : Instr) (s : State), causeOf i s = none →
    (∃ t, exec i s = .next t ∧ t.err = s.err ∧
      ∀ r, (t.port s.cur).out = r :: (s.port s.cur).out → r.status ≠ .fault) ∨
      (exec i s = .refused .prepDuringPush ∧ ∃ ch cap, i = .fprep ch 0 cap ∧ s.pushInFlight ch.toNat = true)

/-- R280: a command whose selectors are in range is refused for its port exactly when the table does not give it to
that port; the clauses after it are the table. -/
def Obligations.PortRights : Prop :=
  (∀ (i : Instr) (s : State), selectorsOk i s = true →
      (exec i s = .next (s.raise .wrongPort i.word) ↔ legalOn i s.cur = false)) ∧
    (∀ i : Instr, legalOn i .A = true ↔
      (∃ n xs, i = .proc n xs) ∨ (∃ ch xs, i = .fpush ch 0 xs) ∨ (∃ ch, i = .favail ch 0) ∨
        (∃ ch k, i = .fovf ch k) ∨ ∃ r, i = .rdr r) ∧
    (∀ i : Instr, legalOn i .H = true ↔
      (∃ r v, i = .wrr r v ∧ r.toNat ≤ 8) ∨ (∃ r, i = .rdr r) ∨ ∃ ch k, i = .fovf ch k) ∧
    ∀ i : Instr, legalOn i .B = false ↔
      (∃ n xs, i = .proc n xs) ∨ (∃ ch xs, i = .fpush ch 0 xs) ∨ ∃ r v, i = .wrr r v ∧ r.toNat ≤ 8

/-- R41, R275: `ERR` changes in a step only when it recorded nothing before, and then the port whose turn it was has
just answered `FAULT`; or the step is a reset. -/
def Obligations.ErrSticky : Prop :=
  ∀ s t : State, step s = .next t → t.err ≠ s.err →
    (∃ es, s.sched = .reset :: es) ∨
      (s.err.valid = false ∧ t.err.valid = true ∧ ∃ p sp es r, s.sched = .turn p sp :: es ∧
        (t.port p).out = r :: (s.port p).out ∧ r.status = .fault ∧ r.value = t.err.cause.setWidth 28)

/-! ## Ring buffer -/

/-- R124: a prepared FIFO has the capacity asked for, the latched shape, cursors and counter at 0. The slot contents are
left open (U8). -/
def Obligations.FprepResult : Prop :=
  ∀ (s : State) (ch : BitVec 4) (cap : BitVec 18),
    s.cur = .B → ch.toNat < s.nch → 0 < cap.toNat → cap.toNat ≤ s.cfg.cmax →
    (∀ n, s.blkLen = some n → s.pushInFlight ch.toNat = false → ∃ slots, slots.length = cap.toNat ∧
      exec (.fprep ch 0 cap) s = .next (State.finish { s with
        chans := s.chans.set ch.toNat { s.chan ch.toNat with
          sf := { prepared := true, cap := cap.toNat, shape := n.toNat, wr := 0, rd := 0, slots := slots, ovf := 0 } } }
        (respond .ok 0))) ∧
    (∀ o, (s.chan ch.toNat).ord = some o → ∃ slots, slots.length = cap.toNat ∧
      exec (.fprep ch 1 cap) s = .next (State.finish { s with
        chans := s.chans.set ch.toNat { s.chan ch.toNat with
          mf := { prepared := true, cap := cap.toNat, shape := o.size / 2, wr := 0, rd := 0, slots := slots
                  ovf := 0 } } }
        (respond .ok 0))) ∧
    ∃ slots, slots.length = cap.toNat ∧
      exec (.fprep ch 2 cap) s = .next (State.finish { s with
        chans := s.chans.set ch.toNat { s.chan ch.toNat with
          cf := { prepared := true, cap := cap.toNat, shape := 0, wr := 0, rd := 0, slots := slots, ovf := 0 } } }
        (respond .ok 0))

/-- R311, U1: an `FPREP SF[ch]` whose checks pass is refused while agent A is between the steps of an
`FPUSH SF[ch]`. -/
def Obligations.FprepDuringPush : Prop :=
  ∀ (s : State) (ch : BitVec 4) (cap : BitVec 18) (n : BitVec 14),
    s.cur = .B → ch.toNat < s.nch → 0 < cap.toNat → cap.toNat ≤ s.cfg.cmax → s.blkLen = some n →
    ((∃ xs, s.ports.a.busy = some (.pushCopy ch.toNat (.samples xs))) ∨
      s.ports.a.busy = some (.pushPublish ch.toNat .sf)) →
    exec (.fprep ch 0 cap) s = .refused .prepDuringPush

/-- R97, R125: a push into a prepared FIFO with room stores the element in slot `wr mod C` and advances `wr`; a push
into a full one changes only `ovf`, which saturates. Each of the three kinds, with its element layout. -/
def Obligations.FpushResult : Prop :=
  (∀ (s : State) (ch : BitVec 4) (xs : List Word),
      let c := s.chan ch.toNat
      s.cur = .A → ch.toNat < s.nch → c.sf.prepared = true → xs.length = c.sf.shape →
      (c.sf.wr - c.sf.rd < c.sf.cap → s.turn.split = false →
        exec (.fpush ch 0 xs) s = .next (State.finish { s with
          chans := s.chans.set ch.toNat { c with
            sf := { c.sf with slots := c.sf.slots.set (c.sf.wr % c.sf.cap) xs, wr := c.sf.wr + 1 } } }
          (respond .ok 0))) ∧
      (c.sf.cap ≤ c.sf.wr - c.sf.rd →
        exec (.fpush ch 0 xs) s = .next (State.finish { s with
          chans := s.chans.set ch.toNat { c with sf := { c.sf with ovf := min (c.sf.ovf + 1) (2 ^ 28 - 1) } } }
          (respond .dropped 0)))) ∧
    (∀ (s : State) (ch : BitVec 4) (db : List Word),
      let c := s.chan ch.toNat
      s.cur = .B → ch.toNat < s.nch → c.mf.prepared = true → db.length = c.mf.shape →
      (c.mf.wr - c.mf.rd < c.mf.cap → s.turn.split = false →
        exec (.fpush ch 1 db) s = .next (State.finish { s with
          chans := s.chans.set ch.toNat { c with
            mf := { c.mf with slots := c.mf.slots.set (c.mf.wr % c.mf.cap) db, wr := c.mf.wr + 1 } } }
          (respond .ok 0))) ∧
      (c.mf.cap ≤ c.mf.wr - c.mf.rd →
        exec (.fpush ch 1 db) s = .next (State.finish { s with
          chans := s.chans.set ch.toNat { c with mf := { c.mf with ovf := min (c.mf.ovf + 1) (2 ^ 28 - 1) } } }
          (respond .dropped 0)))) ∧
    ∀ (s : State) (ch : BitVec 4) (ps : List (Point Word)),
      let c := s.chan ch.toNat
      let item := BitVec.ofNat 32 ps.length :: ps.flatMap fun p => [p.x, p.y]
      s.cur = .B → ch.toNat < s.nch → c.cf.prepared = true → ps.length ≤ 4096 →
      (c.cf.wr - c.cf.rd < c.cf.cap → s.turn.split = false →
        exec (.fpush ch 2 item) s = .next (State.finish { s with
          chans := s.chans.set ch.toNat { c with
            cf := { c.cf with slots := c.cf.slots.set (c.cf.wr % c.cf.cap) ps, wr := c.cf.wr + 1 } } }
          (respond .ok 0))) ∧
      (c.cf.cap ≤ c.cf.wr - c.cf.rd →
        exec (.fpush ch 2 item) s = .next (State.finish { s with
          chans := s.chans.set ch.toNat { c with cf := { c.cf with ovf := min (c.cf.ovf + 1) (2 ^ 28 - 1) } } }
          (respond .dropped 0)))

/-- R99, R126: a pull answers with the element in slot `rd mod C` and advances `rd`; a pull from an empty FIFO answers
`EMPTY` and changes nothing. -/
def Obligations.FpullResult : Prop :=
  (∀ (s : State) (ch : BitVec 4) (xs : List Word),
      let c := s.chan ch.toNat
      s.cur = .B → ch.toNat < s.nch → c.sf.prepared = true → c.sf.rd < c.sf.wr → s.turn.split = false →
      c.sf.slots[c.sf.rd % c.sf.cap]? = some xs →
      exec (.fpull ch 0) s = .next (State.finish { s with
        chans := s.chans.set ch.toNat { c with sf := { c.sf with rd := c.sf.rd + 1 } } }
        { status := .ok, value := BitVec.ofNat 28 xs.length, payload := xs })) ∧
    (∀ (s : State) (ch : BitVec 4) (db : List Word),
      let c := s.chan ch.toNat
      s.cur = .B → ch.toNat < s.nch → c.mf.prepared = true → c.mf.rd < c.mf.wr → s.turn.split = false →
      c.mf.slots[c.mf.rd % c.mf.cap]? = some db →
      exec (.fpull ch 1) s = .next (State.finish { s with
        chans := s.chans.set ch.toNat { c with mf := { c.mf with rd := c.mf.rd + 1 } } }
        { status := .ok, value := BitVec.ofNat 28 db.length, payload := db })) ∧
    (∀ (s : State) (ch : BitVec 4) (ps : List (Point Word)),
      let c := s.chan ch.toNat
      s.cur = .B → ch.toNat < s.nch → c.cf.prepared = true → c.cf.rd < c.cf.wr → s.turn.split = false →
      c.cf.slots[c.cf.rd % c.cf.cap]? = some ps →
      exec (.fpull ch 2) s = .next (State.finish { s with
        chans := s.chans.set ch.toNat { c with cf := { c.cf with rd := c.cf.rd + 1 } } }
        { status := .ok, value := BitVec.ofNat 28 (1 + 2 * ps.length)
          payload := BitVec.ofNat 32 ps.length :: ps.flatMap fun p => [p.x, p.y] })) ∧
    ∀ (s : State) (ch : BitVec 4) (k : BitVec 2) (kind : FifoKind), fifoKind k = some kind →
      s.cur = .B → ch.toNat < s.nch → ((s.chan ch.toNat).fifo kind).prepared = true →
      ((s.chan ch.toNat).fifo kind).wr ≤ ((s.chan ch.toNat).fifo kind).rd →
      exec (.fpull ch k) s = .next (s.finish { status := .empty, value := 0, payload := [] })

/-- R127, R128, R69: `FAVAIL` answers the readable count to the FIFO's producer and consumer, `FOVF` the overflow
counter to any port, prepared or not; neither changes anything else. -/
def Obligations.FavailFovfResult : Prop :=
  ∀ (s : State) (ch : BitVec 4) (k : BitVec 2) (kind : FifoKind), fifoKind k = some kind → ch.toNat < s.nch →
    let q := (s.chan ch.toNat).fifo kind
    (q.prepared = true → (s.cur = .B ∨ (s.cur = .A ∧ kind = .sf)) →
      exec (.favail ch k) s =
        .next (s.finish { status := .ok, value := BitVec.ofNat 28 (q.wr - q.rd), payload := [] })) ∧
    exec (.fovf ch k) s = .next (s.finish { status := .ok, value := BitVec.ofNat 28 q.ovf, payload := [] })

/-- R129: under every order of pushes and pulls on a FIFO, the elements pulled are the elements accepted, in order, with
the rest still queued; N pushes then N pulls give back what was pushed; a pull on an empty FIFO changes nothing. -/
def Obligations.FifoLaw : Prop :=
  ∀ (α : Type) (d : α) (cmax : Nat) (q : Fifo α), q.prepared = true → q.Ok cmax →
    (∀ ops : List (Option α),
      q.queued d ++ (q.runOps d ops).2.1 = (q.runOps d ops).2.2 ++ (q.runOps d ops).1.queued d) ∧
    (∀ xs : List α, q.readable = 0 → xs.length ≤ q.cap →
      (q.runOps d (xs.map some ++ List.replicate xs.length none)).2.2 = xs) ∧
    (q.readable = 0 → q.runOps d [none] = (q, [], []))

/-- R43: the FIFO invariant is kept by every step, under every interleaving of the agents' micro-steps, and gives
`0 <= wr - rd <= C` of every prepared FIFO. -/
def Obligations.FifoInvariant : Prop :=
  ∀ s t : State, s.FifoInv → step s = .next t →
    t.FifoInv ∧ ∀ c ∈ t.chans, ∀ k, (c.fifo k).prepared = true →
      (c.fifo k).rd ≤ (c.fifo k).wr ∧ (c.fifo k).wr - (c.fifo k).rd ≤ (c.fifo k).cap

/-- R7, R43, R44: the invariants hold after reset, for all parameters in the ranges of R7. That of the configuration
registers holds in binary32 and in every format in which -48 is finite. -/
def Obligations.InvariantsAtReset : Prop :=
  (∀ (cfg : Config) (nch : Nat), cfg.Ok nch → let s := State.resetFor cfg nch
    s.FifoInv ∧ s.ShapeInv ∧ s.err.Ok ∧ s.ParamsOk ∧ s.CursorsFit ∧
      (cfg.num = .binary32 ∨ Numeric.finite cfg.num (Numeric.ofRat cfg.num (-48)) = true → s.ConfigRegsOk)) ∧
    State.reset.ParamsOk

/-- R121, R124, R130, R158, R300: in a step no cursor and no overflow counter of a FIFO goes back, unless the step is a
reset of the block, an `FPREP` of that FIFO or, for a spectrum FIFO, a `CHORD` of its channel, which put all three
to 0. -/
def Obligations.CursorsMonotone : Prop :=
  ∀ s t : State, s.FifoInv → step s = .next t → ∀ ch, ch < s.nch → ∀ k,
    let q := (s.chan ch).fifo k
    let q' := (t.chan ch).fifo k
    (q.wr ≤ q'.wr ∧ q.rd ≤ q'.rd ∧ q.ovf ≤ q'.ovf) ∨
      (q'.wr = 0 ∧ q'.rd = 0 ∧ q'.ovf = 0 ∧
        ((∃ es, s.sched = .reset :: es) ∨
          ∃ sp es i rest, s.sched = .turn .B sp :: es ∧ s.ports.b.busy = none ∧
            decode s.nch s.ports.b.stream = .ok (i, rest) ∧
            ((∃ c kk cap, i = .fprep c kk cap ∧ c.toNat = ch ∧ fifoKind kk = some k) ∨
              ∃ c ord, i = .chord c ord ∧ c.toNat = ch ∧ k = .mf)))

/-- R66, R76: a command cut at its micro-steps, none of another agent between them, ends in the state the whole
command gives. -/
def Obligations.CutEqualsWhole : Prop :=
  ∀ (i : Instr) (s t : State), exec i { s with turn := { s.turn with split := true } } = .next t →
    ∃ n, exec i { s with turn := { s.turn with split := false } } =
      .next { t.settle n with turn := { s.turn with split := false } } ∧ ((t.settle n).port s.cur).busy = none

/-- R36, R37, R39, R122: every step keeps the shapes: a sample window as long as the transform size, sample blocks and
spectra of their FIFO's shape, polylines of at most `PMAX` points. -/
def Obligations.ShapeInvariant : Prop :=
  ∀ s t : State, s.FifoInv → s.ShapeInv → step s = .next t → t.ShapeInv

/-- R77: in its turn each agent touches only the state it owns and, of the shared state, what R63 gives it. -/
def Obligations.StateOwnership : Prop :=
  (∀ (s t : State) (sp : Bool) (es : List Event), s.FifoInv → s.sched = .turn .A sp :: es → step s = .next t →
      t.params = s.params ∧ t.pchg = s.pchg ∧ t.settings = s.settings ∧ t.newc = s.newc ∧ t.floorDb = s.floorDb ∧
        t.stride = s.stride ∧ t.blkLen = s.blkLen ∧ (t.mbox = s.mbox ∨ t.mbox = none) ∧ t.nch = s.nch ∧
        ∀ ch, (t.chan ch).mf = (s.chan ch).mf ∧ (t.chan ch).cf = (s.chan ch).cf ∧ (t.chan ch).ord = (s.chan ch).ord ∧
          (t.chan ch).win = (s.chan ch).win ∧ (t.chan ch).curve = (s.chan ch).curve ∧
          (t.chan ch).sf.prepared = (s.chan ch).sf.prepared ∧ (t.chan ch).sf.cap = (s.chan ch).sf.cap ∧
          (t.chan ch).sf.shape = (s.chan ch).sf.shape ∧ (t.chan ch).sf.rd = (s.chan ch).sf.rd) ∧
    (∀ (s t : State) (sp : Bool) (es : List Event), s.FifoInv → s.sched = .turn .B sp :: es → step s = .next t →
      t.params = s.params ∧ t.act = s.act ∧ (t.mbox = s.mbox ∨ t.mbox = t.newc) ∧ (t.pchg = s.pchg ∨ t.pchg = false) ∧
        t.nch = s.nch ∧ (∀ ch, (t.chan ch).z = (s.chan ch).z) ∧
        ((∀ ch cap rest, decode s.nch s.ports.b.stream ≠ .ok (.fprep ch 0 cap, rest)) → ∀ ch,
          (t.chan ch).sf.prepared = (s.chan ch).sf.prepared ∧ (t.chan ch).sf.cap = (s.chan ch).sf.cap ∧
          (t.chan ch).sf.shape = (s.chan ch).sf.shape ∧ (t.chan ch).sf.wr = (s.chan ch).sf.wr ∧
          (t.chan ch).sf.ovf = (s.chan ch).sf.ovf ∧ (t.chan ch).sf.slots = (s.chan ch).sf.slots)) ∧
    ∀ (s t : State) (sp : Bool) (es : List Event), s.FifoInv → s.sched = .turn .H sp :: es → step s = .next t →
      t = { s with
        sched := es, turn := { port := .H, split := sp }, params := t.params, pchg := t.pchg, err := t.err
        ports := t.ports } ∧ t.ports.a = s.ports.a ∧ t.ports.b = s.ports.b ∧ (t.pchg = s.pchg ∨ t.pchg = true)

/-! ## Reassembler -/

/-- R142: `RFEED` pulls the oldest block and shifts it into the window, and answers its length; on an empty FIFO it
answers `EMPTY` and changes nothing. -/
def Obligations.RfeedResult : Prop :=
  ∀ (s : State) (ch : BitVec 4) (o : Order),
    let c := s.chan ch.toNat
    s.cur = .B → ch.toNat < s.nch → c.sf.prepared = true → c.ord = some o → c.sf.shape ≤ o.size →
    (∀ blk, c.sf.rd < c.sf.wr → s.turn.split = false → c.sf.slots[c.sf.rd % c.sf.cap]? = some blk →
      exec (.rfeed ch) s = .next (State.finish { s with
        chans := s.chans.set ch.toNat { c with
          sf := { c.sf with rd := c.sf.rd + 1 }
          win := c.win.drop blk.length ++ blk } }
        { status := .ok, value := BitVec.ofNat 28 c.sf.shape, payload := [] })) ∧
    (c.sf.wr ≤ c.sf.rd →
      exec (.rfeed ch) s = .next (s.finish { status := .empty, value := 0, payload := [] }))

/-- R141: the shift-in function, index by index. -/
def Obligations.ShiftInLaw : Prop :=
  ∀ win blk : List Word, blk.length ≤ win.length →
    (shiftIn win blk).length = win.length ∧
      (∀ i, i < win.length - blk.length → (shiftIn win blk)[i]? = win[i + blk.length]?) ∧
      ∀ i, win.length - blk.length ≤ i → i < win.length →
        (shiftIn win blk)[i]? = blk[i - (win.length - blk.length)]?

/-- R143: after `CHORD` and `m` successful `RFEED`s with block length `S` the window holds, at its end, the last
`min(N, m*S)` samples pushed, preceded by zeros. -/
def Obligations.WindowAfterFeeds : Prop :=
  ∀ (s : State) (ch : BitVec 4) (ord : BitVec 18) (o : Order) (m S : Nat),
    let c := s.chan ch.toNat
    let n := min o.size (m * S)
    s.cur = .B → s.turn.split = false → ch.toNat < s.nch → Sys2Proof.Machine.orderOf ord = some o → c.sf.prepared = true →
    c.sf.Ok s.cfg.cmax → c.sf.shape = S → S ≤ o.size → (∀ b ∈ c.sf.queued [], b.length = S) → m ≤ c.sf.readable →
    ∃ t, runCommands (.chord ch ord :: List.replicate m (.rfeed ch)) s = some t ∧
      (t.chan ch.toNat).win =
        List.replicate (o.size - n) (Numeric.ofRat s.cfg.num 0) ++
          (((c.sf.queued []).take m).flatten).drop (m * S - n)

/-! ## Spectral stage -/

/-- R158, R159: `CHORD` sets the order, makes the window zeros of the new size and re-prepares a prepared `MF[ch]` with
its capacity kept; `SF[ch]`, `CF[ch]` and `CURVE[ch]` stay. The slot contents are left open (U8). -/
def Obligations.ChordResult : Prop :=
  ∀ (s : State) (ch : BitVec 4) (ord : BitVec 18) (o : Order) (n : Nat),
    let c := s.chan ch.toNat
    s.cur = .B → ch.toNat < s.nch →
    (ord = 11 ∧ o = .o11 ∧ n = 2048) ∨ (ord = 12 ∧ o = .o12 ∧ n = 4096) ∨ (ord = 13 ∧ o = .o13 ∧ n = 8192) →
    ∃ slots, slots.length = c.mf.cap ∧
      exec (.chord ch ord) s = .next (State.finish { s with
        chans := s.chans.set ch.toNat { c with
          ord := some o
          win := List.replicate n (Numeric.ofRat s.cfg.num 0)
          mf :=
            if c.mf.prepared then
              { prepared := true, cap := c.mf.cap, shape := n / 2, wr := 0, rd := 0, slots := slots, ovf := 0 }
            else c.mf } }
        (respond .ok 0))

/-- R160: `SPEC` publishes the spectrum of the channel's window; on a full `MF[ch]` it is dropped and counted. The window
is not modified. -/
def Obligations.SpecResult : Prop :=
  ∀ (s : State) (ch : BitVec 4) (floorDb : Word) (o : Order),
    let c := s.chan ch.toNat
    let db := spectrumOf s.cfg o.size c.win floorDb
    s.cur = .B → ch.toNat < s.nch → c.ord = some o → c.mf.prepared = true →
    Numeric.finite s.cfg.num floorDb = true →
    (c.mf.wr - c.mf.rd < c.mf.cap →
      exec (.spec ch floorDb) s = .next (State.finish { s with
        chans := s.chans.set ch.toNat { c with
          mf := { c.mf with slots := c.mf.slots.set (c.mf.wr % c.mf.cap) db, wr := c.mf.wr + 1 } } }
        (respond .ok 0))) ∧
    (c.mf.cap ≤ c.mf.wr - c.mf.rd →
      exec (.spec ch floorDb) s = .next (State.finish { s with
        chans := s.chans.set ch.toNat { c with mf := { c.mf with ovf := min (c.mf.ovf + 1) (2 ^ 28 - 1) } } }
        (respond .dropped 0)))

/-- R152, R154, R155, R156, R160, R161: the steps of the spectrum, value by value: windowing by one multiplication per
sample, the transform unit, division by N/2, decibels; its length is N/2 and every value is finite and at least the
floor. -/
def Obligations.SpectrumSteps : Prop :=
  ∀ (cfg : Config) (win : List Word) (floorDb : Word), Numeric.finite cfg.num floorDb = true →
    let N := win.length
    let work := (List.range N).map fun n =>
      Numeric.mul cfg.num (win.getD n 0) (windowWeight (Numeric.arith cfg.num) cfg.window N n)
    let db := spectrumOf cfg N win floorDb
    db.length = N / 2 ∧ (fftmag cfg work).length = N / 2 ∧
      ∀ k, k < N / 2 → ∃ m, (fftmag cfg work)[k]? = some m ∧
        db[k]? = some (toDb (Numeric.arith cfg.num)
          (Numeric.div cfg.num m (Numeric.ofRat cfg.num ((N / 2 : Nat) : ℚ))) floorDb) ∧
        ∀ d, db[k]? = some d → Numeric.finite cfg.num d = true ∧ Numeric.le cfg.num floorDb d = true

/-- R156, R157: the decibel converter, in every number format (the extended reals with `rnd` the identity among them):
`20 * log10(m)` of a positive magnitude where that is finite and not below the floor, and the floor for every other
magnitude; so its value is finite and at least the floor. -/
def Obligations.DecibelFloor : Prop :=
  ∀ (K W : Type) [Field K] [LinearOrder K] (F : NumberFormat K W) (m floorDb : W), (F.value floorDb).isFinite = true →
    let A := F.arith
    let d := A.mul (A.ofRat 20) (A.log10 m)
    A.finite (toDb A m floorDb) = true ∧ A.le floorDb (toDb A m floorDb) = true ∧
      (A.isNan m = false → A.lt (A.ofRat 0) m = true → A.finite d = true → A.lt d floorDb = false →
        toDb A m floorDb = d) ∧
      (A.isNan m = true ∨ A.lt (A.ofRat 0) m = false ∨ A.finite d = false ∨ A.lt d floorDb = true →
        toDb A m floorDb = floorDb)

/-- R151, over the reals: the analysis window is symmetric, `w_N[n] = w_N[N-1-n]`, and its end weights are 0.00006, 0
and 0.08. -/
def Obligations.WindowShape : Prop :=
  (∀ (kind : WindowKind) (N n : Nat), 2 ≤ N → n < N →
      windowWeight Reference.arith kind N n = windowWeight Reference.arith kind N (N - 1 - n)) ∧
    ∀ N : Nat, 2 ≤ N → windowWeight Reference.arith .bh4 N 0 = 0.00006 ∧
      windowWeight Reference.arith .hann N 0 = 0 ∧ windowWeight Reference.arith .hamming N 0 = 0.08

/-- R153, R154, R160: the sums the transform accumulates are the unnormalised DFT sums over its table of cosines and
sines, and its root is the integer square root. Every unit answers N/2 magnitudes: for finite samples each within `TOL`
of the root of the sums' squares or that root rounded, for samples that are all zero 0, and in binary32, with a sample
that is not finite, none that is. The rules name `TOL` and give it no measure: that `|v - m| ≤ cfg.tol` is one absolute
distance, the same for every magnitude, is the model's choice (notes/assumptions/15.md). So are the fixed-point value of
`m`, the rounding of `m` where a unit's answer lies outside `TOL`, the zeros of every unit for samples that are all zero,
and `NaN` or `+Inf` in every bin (notes/assumptions/6.md). -/
def Obligations.TransformSums : Prop :=
  (∀ (tab : Array (Int × Int)) (N k : Nat) (xs : List Int), 0 < N →
      dftSum tab N k xs 0 0 0 =
        (((List.range xs.length).map fun n => xs.getD n 0 * (tab.getD (k * n % N) (0, 0)).1).sum,
          -((List.range xs.length).map fun n => xs.getD n 0 * (tab.getD (k * n % N) (0, 0)).2).sum)) ∧
    (∀ x : Nat, Fix.isqrt x * Fix.isqrt x ≤ x ∧ x < (Fix.isqrt x + 1) * (Fix.isqrt x + 1)) ∧
    (∀ (cfg : Config) (xs : List Word) (qs : List ℚ), xs.map (Numeric.value cfg.num) = qs.map .fin →
      (fftmag cfg xs).length = xs.length / 2 ∧
        ∀ (k : Nat) (w : Word), (fftmag cfg xs)[k]? = some w →
          ((∀ q ∈ qs, q = 0) → w = Numeric.ofRat cfg.num 0) ∧
          ((∃ q ∈ qs, q ≠ 0) →
            let m := exactMagnitude (cosSinTable xs.length) xs.length k (commonDen qs)
              (qs.map fun q => q.num * ((commonDen qs / q.den : Nat) : ℤ))
            w = Numeric.ofRat cfg.num m ∨
              ∃ v : ℚ, cfg.fft ≠ .reference ∧ Numeric.value cfg.num w = .fin v ∧ |v - m| ≤ cfg.tol)) ∧
    ∀ (cfg : Config) (xs : List Word), cfg.num = .binary32 → (∃ x ∈ xs, Numeric.finite .binary32 x = false) →
      (fftmag cfg xs).length = xs.length / 2 ∧
        ∀ w ∈ fftmag cfg xs, Numeric.value .binary32 w = .nan ∨ Numeric.value .binary32 w = .posInf

/-! ## Curve generator -/

/-- R186: `CGEN` consumes the oldest spectrum and publishes its polyline, dropped and counted when `CF[ch]` is full;
on an empty `MF[ch]` it answers `EMPTY` and changes nothing. `bx` is not used (R182). -/
def Obligations.CgenResult : Prop :=
  ∀ (s : State) (ch : BitVec 4) (bx bt bw bh binw floorDb : Word) (o : Order),
    let c := s.chan ch.toNat
    s.cur = .B → ch.toNat < s.nch → c.ord = some o → c.mf.prepared = true → c.cf.prepared = true →
    Numeric.finite s.cfg.num floorDb = true →
    (∀ db, c.mf.rd < c.mf.wr → c.mf.slots[c.mf.rd % c.mf.cap]? = some db →
      let pts := genPath (Numeric.arith s.cfg.num) db o.size bt bw bh binw floorDb s.stride.toNat
      (c.cf.wr - c.cf.rd < c.cf.cap →
        exec (.cgen ch bx bt bw bh binw floorDb) s = .next (State.finish { s with
          chans := s.chans.set ch.toNat { c with
            mf := { c.mf with rd := c.mf.rd + 1 }
            cf := { c.cf with slots := c.cf.slots.set (c.cf.wr % c.cf.cap) pts, wr := c.cf.wr + 1 } } }
          (respond .ok pts.length))) ∧
      (c.cf.cap ≤ c.cf.wr - c.cf.rd →
        exec (.cgen ch bx bt bw bh binw floorDb) s = .next (State.finish { s with
          chans := s.chans.set ch.toNat { c with
            mf := { c.mf with rd := c.mf.rd + 1 }
            cf := { c.cf with ovf := min (c.cf.ovf + 1) (2 ^ 28 - 1) } } }
          (respond .dropped pts.length)))) ∧
    (c.mf.wr ≤ c.mf.rd →
      exec (.cgen ch bx bt bw bh binw floorDb) s = .next (s.finish { status := .empty, value := 0, payload := [] }))

/-- R187, R188: `CGET` drains `CF[ch]` and keeps the newest polyline; with nothing queued `CURVE[ch]` stays. `RDCRV`
answers the count and the points of `CURVE[ch]` and changes nothing else. -/
def Obligations.CgetRdcrvResult : Prop :=
  ∀ (s : State) (ch : BitVec 4),
    let c := s.chan ch.toNat
    s.cur = .B → ch.toNat < s.nch →
    (c.cf.prepared = true → c.cf.rd ≤ c.cf.wr →
      exec (.cget ch) s = .next (State.finish { s with
        chans := s.chans.set ch.toNat { c with
          cf := { c.cf with rd := c.cf.wr }
          curve := if c.cf.rd < c.cf.wr then c.cf.slots.getD ((c.cf.wr - 1) % c.cf.cap) [] else c.curve } }
        (respond .ok (c.cf.wr - c.cf.rd)))) ∧
    exec (.rdcrv ch) s = .next (s.finish
      { status := .ok, value := BitVec.ofNat 28 c.curve.length, payload := c.curve.flatMap fun p => [p.x, p.y] })

/-- R184: the polyline visits bins 0, stride, 2*stride, ... below N/2 in order and keeps exactly those whose x and y are
finite; it has at most ceil((N/2)/stride) points. R181, R183, over the reals: the frequency axis takes 20 Hz to 0 and
20000 Hz to 1 and grows in equal ratios by equal steps; y is the bottom at the floor, the top at 0 dB, and a straight
line in the decibel value. -/
def Obligations.PolylinePoints : Prop :=
  (∀ (α : Type) (A : Arith α) (db : List α) (N stride : Nat) (bt bw bh binw floorDb : α), 1 ≤ stride →
    let visits := (N / 2 + stride - 1) / stride
    let pts := genPath A db N bt bw bh binw floorDb stride
    pts = (List.range visits).filterMap (fun j =>
      let x := pointX A (j * stride) bw binw
      let y := pointY A (db.getD (j * stride) (A.ofRat 0)) bt bh floorDb
      if A.finite x = true ∧ A.finite y = true then some { x := x, y := y } else none) ∧
    pts.length ≤ visits ∧ ∀ p ∈ pts, A.finite p.x = true ∧ A.finite p.y = true) ∧
    mapFromLog10 Reference.arith 20 20 20000 = 0 ∧ mapFromLog10 Reference.arith 20000 20 20000 = 1 ∧
    (∀ v r : ℝ, 0 < v → 0 < r → mapFromLog10 Reference.arith (v * r) 20 20000 =
      mapFromLog10 Reference.arith v 20 20000 + mapFromLog10 Reference.arith (20 * r) 20 20000) ∧
    (∀ (k : Nat) (bw binw : ℝ), 0 < k → 0 < binw →
      pointX Reference.arith k bw binw = Real.log (k * binw / 20) / Real.log 1000 * bw) ∧
    ∀ bt bh floorDb : ℝ, floorDb ≠ 0 →
      pointY Reference.arith floorDb bt bh floorDb = bt + bh ∧ pointY Reference.arith 0 bt bh floorDb = bt ∧
        ∀ d e : ℝ, pointY Reference.arith d bt bh floorDb - pointY Reference.arith e bt bh floorDb =
          (d - e) / floorDb * bh

/-- R183, R184, R189, in binary32: a flat spectrum gives a constant y; the bin of a NaN value is not plotted; bin 0 is
never plotted; a floor of 0 gives the empty polyline. -/
def Obligations.SkippedPoints : Prop :=
  (∀ (α : Type) (A : Arith α) (d : α) (db : List α) (N stride : Nat) (bt bw bh binw floorDb : α), 1 ≤ stride →
      N / 2 ≤ db.length → (∀ x ∈ db, x = d) → ∀ p ∈ genPath A db N bt bw bh binw floorDb stride,
        ∀ q ∈ genPath A db N bt bw bh binw floorDb stride, p.y = q.y) ∧
    let A := Numeric.arith .binary32
    (∀ (k : Nat) (d bt bw bh binw floorDb : Word), Numeric.isNan .binary32 d = true →
      pointOf A k d bt bw bh binw floorDb = none) ∧
    (∀ d bt bw bh binw floorDb : Word, pointOf A 0 d bt bw bh binw floorDb = none) ∧
    ∀ (db : List Word) (N stride : Nat) (bt bw bh binw floorDb : Word), Numeric.value .binary32 floorDb = .fin 0 →
      genPath A db N bt bw bh binw floorDb stride = []

/-! ## Filter chain -/

/-- R210, R202: `CCOEF` puts the design of `SET` for `fs` into `NEWC`, in the domain of R202. Outside it the whole of
`NEWC` is a free value and the command completes (notes/assumptions/5.md, the model's choice). -/
def Obligations.CcoefResult : Prop :=
  ∀ (s : State) (fs : Word) (c : ChainSettings Word), s.cur = .B → s.settings = some c →
    (validSettings s.cfg.num c fs = true →
      exec (.ccoef fs) s = .next (State.finish { s with
        newc := some (design (Numeric.arith s.cfg.num) c fs) } (respond .ok 0))) ∧
    (validSettings s.cfg.num c fs = false → ∃ (x : CoeffSet Word) (n : Nat),
      exec (.ccoef fs) s = .next (State.finish { s with newc := some x, freeCtr := n } (respond .ok 0)))

/-- R42, R207, R208, R218: a designed CoeffSet has exactly `slopeOrder` active stages in each cut group, the
lowest-numbered, active stage `i` the low-cut or high-cut section of quality `Q(M, i)`; the others are identity stages,
bypassed; stage 4 is the peak design; the group flags are the settings' and the peak stage's flag the peak's. In every
table of primitives: in a number format and over the reals. -/
def Obligations.DesignStages : Prop :=
  ∀ (α : Type) (A : Arith α) (c : ChainSettings α) (fs : α),
    let d := design A c fs
    let lc := [d.stage.lc0, d.stage.lc1, d.stage.lc2, d.stage.lc3]
    let hc := [d.stage.hc0, d.stage.hc1, d.stage.hc2, d.stage.hc3]
    d.gbypLC = c.lowCutBypassed ∧ d.gbypPK = c.peakBypassed ∧ d.gbypHC = c.highCutBypassed ∧
      d.stage.pk.byp = c.peakBypassed ∧
      d.stage.pk.co = peakBiquad A c.peakFreqHz c.peakGainDb c.peakQuality fs ∧
      (∀ (i : Nat) (st : Stage α), lc[i]? = some st →
        (st.byp = true ↔ c.lowCutSlopeOrder.toNat ≤ i) ∧
        (st.byp = false →
          st.co = lowCutBiquad A c.lowCutFreqHz (sectionQuality A c.lowCutSlopeOrder.toNat i) fs) ∧
        (st.byp = true →
          st.co = { b0 := A.ofRat 1, b1 := A.ofRat 0, b2 := A.ofRat 0, a1 := A.ofRat 0, a2 := A.ofRat 0 })) ∧
      (∀ (i : Nat) (st : Stage α), hc[i]? = some st →
        (st.byp = true ↔ c.highCutSlopeOrder.toNat ≤ i) ∧
        (st.byp = false →
          st.co = highCutBiquad A c.highCutFreqHz (sectionQuality A c.highCutSlopeOrder.toNat i) fs) ∧
        (st.byp = true →
          st.co = { b0 := A.ofRat 1, b1 := A.ofRat 0, b2 := A.ofRat 0, a1 := A.ofRat 0, a2 := A.ofRat 0 })) ∧
      (1 ≤ c.lowCutSlopeOrder.toNat → c.lowCutSlopeOrder.toNat ≤ 4 →
        (lc.filter fun st => !st.byp).length = c.lowCutSlopeOrder.toNat) ∧
      (1 ≤ c.highCutSlopeOrder.toNat → c.highCutSlopeOrder.toNat ≤ 4 →
        (hc.filter fun st => !st.byp).length = c.highCutSlopeOrder.toNat)

/-- R212, R213: `APPLY` stores `NEWC` into `MBOX`, over whatever waits there; `RDCOEF` answers 46 words, the flags of the
nine stages and three groups and the 45 coefficients in stage order, and changes nothing else. -/
def Obligations.ApplyRdcoefResult : Prop :=
  ∀ (s : State) (c : CoeffSet Word), s.cur = .B → s.newc = some c →
    exec .apply s = .next (State.finish { s with mbox := some c } (respond .ok 0)) ∧
    ∃ (flags : Word) (co : List Word),
      exec .rdcoef s = .next (s.finish { status := .ok, value := 46, payload := flags :: co }) ∧
      (∀ (j : Nat) (b : Bool),
        [c.stage.lc0.byp, c.stage.lc1.byp, c.stage.lc2.byp, c.stage.lc3.byp, c.stage.pk.byp, c.stage.hc0.byp,
          c.stage.hc1.byp, c.stage.hc2.byp, c.stage.hc3.byp, c.gbypLC, c.gbypPK, c.gbypHC][j]? = some b →
        flags.getLsbD j = b) ∧
      (∀ j, 12 ≤ j → flags.getLsbD j = false) ∧
      co = [c.stage.lc0, c.stage.lc1, c.stage.lc2, c.stage.lc3, c.stage.pk, c.stage.hc0, c.stage.hc1, c.stage.hc2,
        c.stage.hc3].flatMap fun st => [st.co.b0, st.co.b1, st.co.b2, st.co.a1, st.co.a2]

/-- R214, R215: `PROC` takes the mailbox, then filters each channel's `n` samples with the one CoeffSet and that
channel's own state, and answers the outputs in the layout of the input; nothing else changes. -/
def Obligations.ProcResult : Prop :=
  ∀ (s : State) (n : BitVec 18) (samples : List Word), s.cur = .A → s.turn.split = false →
    let act := match s.mbox with
      | some c => c
      | none => s.act
    let slice := fun c : Nat => (samples.drop (c * n.toNat)).take n.toNat
    let run := fun c : Nat => processSamples (Numeric.arith s.cfg.num) act (s.chan c).z (slice c)
    exec (.proc n samples) s = .next (State.finish { s with
      act := act
      mbox := none
      chans := (List.range s.nch).map fun c => { s.chan c with z := (run c).2 } }
      { status := .ok, value := BitVec.ofNat 28 n.toNat
        payload := (List.range s.nch).flatMap fun c => (run c).1 })

/-- R214, R217, R218, R302: a stage that is bypassed, or whose group is, passes its input on and keeps its state, and
another answers the biquad step of R216; a sample goes through stages 0 to 8 in order, each fed with the output of the
one before; with every group bypassed the chain is the identity on any samples and leaves its state as it was. -/
def Obligations.BypassIdentity : Prop :=
  (∀ (α : Type) (A : Arith α) (gbyp : Bool) (st : Stage α) (z : StageState α) (v : α),
      (gbyp = true ∨ st.byp = true → runStage A gbyp st z v = (v, z)) ∧
        (gbyp = false → st.byp = false →
          let y := A.add (A.mul st.co.b0 v) z.s1
          runStage A gbyp st z v =
            (y, { s1 := A.add (A.sub (A.mul st.co.b1 v) (A.mul st.co.a1 y)) z.s2
                  s2 := A.sub (A.mul st.co.b2 v) (A.mul st.co.a2 y) }))) ∧
    (∀ (α : Type) (A : Arith α) (c : CoeffSet α) (z z' : Nine (StageState α)) (v v1 v2 v3 v4 v5 v6 v7 v8 v9 : α),
      runStage A c.gbypLC c.stage.lc0 z.lc0 v = (v1, z'.lc0) →
      runStage A c.gbypLC c.stage.lc1 z.lc1 v1 = (v2, z'.lc1) →
      runStage A c.gbypLC c.stage.lc2 z.lc2 v2 = (v3, z'.lc2) →
      runStage A c.gbypLC c.stage.lc3 z.lc3 v3 = (v4, z'.lc3) →
      runStage A c.gbypPK c.stage.pk z.pk v4 = (v5, z'.pk) →
      runStage A c.gbypHC c.stage.hc0 z.hc0 v5 = (v6, z'.hc0) →
      runStage A c.gbypHC c.stage.hc1 z.hc1 v6 = (v7, z'.hc1) →
      runStage A c.gbypHC c.stage.hc2 z.hc2 v7 = (v8, z'.hc2) →
      runStage A c.gbypHC c.stage.hc3 z.hc3 v8 = (v9, z'.hc3) →
      cascade A c z v = (v9, z')) ∧
    (∀ (α : Type) (A : Arith α) (c : CoeffSet α) (z : Nine (StageState α)) (v : α),
      let z' := (cascade A c z v).2
      (c.gbypLC = true → z'.lc0 = z.lc0 ∧ z'.lc1 = z.lc1 ∧ z'.lc2 = z.lc2 ∧ z'.lc3 = z.lc3) ∧
        (c.gbypPK = true → z'.pk = z.pk) ∧
        (c.gbypHC = true → z'.hc0 = z.hc0 ∧ z'.hc1 = z.hc1 ∧ z'.hc2 = z.hc2 ∧ z'.hc3 = z.hc3) ∧
        (c.stage.lc0.byp = true → z'.lc0 = z.lc0) ∧ (c.stage.lc1.byp = true → z'.lc1 = z.lc1) ∧
        (c.stage.lc2.byp = true → z'.lc2 = z.lc2) ∧ (c.stage.lc3.byp = true → z'.lc3 = z.lc3) ∧
        (c.stage.pk.byp = true → z'.pk = z.pk) ∧ (c.stage.hc0.byp = true → z'.hc0 = z.hc0) ∧
        (c.stage.hc1.byp = true → z'.hc1 = z.hc1) ∧ (c.stage.hc2.byp = true → z'.hc2 = z.hc2) ∧
        (c.stage.hc3.byp = true → z'.hc3 = z.hc3)) ∧
    (∀ (α : Type) (A : Arith α) (c : CoeffSet α) (z : Nine (StageState α)) (v : α), c.gbypLC = true →
      cascade A c z v = cascade A { c with stage := { c.stage with
        lc0 := identityStage A, lc1 := identityStage A, lc2 := identityStage A, lc3 := identityStage A } } z v) ∧
    ∀ (α : Type) (A : Arith α) (c : CoeffSet α) (z : Nine (StageState α)) (vs : List α),
      c.gbypLC = true → c.gbypPK = true → c.gbypHC = true → processSamples A c z vs = (vs, z)

/-- R216, R201: one biquad step in a number format rounds each operation, left to right as written; over the extended
reals it is the step over the reals; over the reals the outputs of the step from zero state are exactly the recurrence
of R201. -/
def Obligations.BiquadRecurrence : Prop :=
  (∀ (F : NumFormat) (c : Biquad Word) (s1 s2 x : Word),
      let y := Numeric.add F (Numeric.mul F c.b0 x) s1
      biquad (Numeric.arith F) c s1 s2 x =
        (y, Numeric.add F (Numeric.sub F (Numeric.mul F c.b1 x) (Numeric.mul F c.a1 y)) s2,
          Numeric.sub F (Numeric.mul F c.b2 x) (Numeric.mul F c.a2 y))) ∧
    (∀ (c : Biquad ℝ) (s1 s2 x : ℝ),
      biquad Reference.arithExt { b0 := .fin c.b0, b1 := .fin c.b1, b2 := .fin c.b2, a1 := .fin c.a1, a2 := .fin c.a2 }
          (.fin s1) (.fin s2) (.fin x) =
        (.fin (biquad Reference.arith c s1 s2 x).1, .fin (biquad Reference.arith c s1 s2 x).2.1,
          .fin (biquad Reference.arith c s1 s2 x).2.2)) ∧
    ∀ (c : Biquad ℝ) (xs : List ℝ), Reference.outputs c 0 0 xs = Reference.recurrence c 0 0 0 0 xs

/-- R203, over the reals: the peak stage has gain exactly 1 at 0 Hz and at fs/2, its numerator is `10^(g/20)` times its
denominator at its centre frequency, `g = 0` gives the identity, and its poles are inside the unit circle. -/
def Obligations.PeakDesign : Prop :=
  ∀ f g q fs : ℝ, 0 < fs → 0 < f → 2 * f < fs → 0 < q →
    let c := peakBiquad Reference.arith f g q fs
    let z := Complex.exp (((2 * Real.pi * f / fs : ℝ) : ℂ) * Complex.I)
    c.b0 + c.b1 + c.b2 = 1 + c.a1 + c.a2 ∧ c.b0 - c.b1 + c.b2 = 1 - c.a1 + c.a2 ∧
      (c.b0 : ℂ) * z ^ 2 + c.b1 * z + c.b2 =
        (((10 : ℝ) ^ (g / 20) : ℝ) : ℂ) * (z ^ 2 + c.a1 * z + c.a2) ∧
      (g = 0 → c.b0 = 1 ∧ c.b1 = c.a1 ∧ c.b2 = c.a2) ∧ c.a2 < 1 ∧ |c.a1| < 1 + c.a2

/-- R204, R205, R206, over the reals: the Butterworth section qualities; a low-cut section has gain 0 at 0 Hz, 1 at fs/2
and `q` at its cut-off; a high-cut section gain 1 at 0 Hz, 0 at fs/2 and `q` at its cut-off. -/
def Obligations.CutDesign : Prop :=
  (∀ M i : Nat, 1 ≤ M → i < M →
    sectionQuality Reference.arith M i = 1 / (2 * Real.cos ((2 * (i : ℝ) + 1) * Real.pi / (4 * (M : ℝ))))) ∧
  ∀ f q fs : ℝ, 0 < fs → 0 < f → 2 * f < fs → 0 < q →
    let z := Complex.exp (((2 * Real.pi * f / fs : ℝ) : ℂ) * Complex.I)
    let l := lowCutBiquad Reference.arith f q fs
    let h := highCutBiquad Reference.arith f q fs
    l.b0 + l.b1 + l.b2 = 0 ∧ l.b0 - l.b1 + l.b2 = 1 - l.a1 + l.a2 ∧ 0 < 1 - l.a1 + l.a2 ∧ 0 < 1 + l.a1 + l.a2 ∧
      h.b0 + h.b1 + h.b2 = 1 + h.a1 + h.a2 ∧ h.b0 - h.b1 + h.b2 = 0 ∧ 0 < 1 + h.a1 + h.a2 ∧ 0 < 1 - h.a1 + h.a2 ∧
      ‖(l.b0 : ℂ) * z ^ 2 + l.b1 * z + l.b2‖ = q * ‖z ^ 2 + l.a1 * z + l.a2‖ ∧ 0 < ‖z ^ 2 + l.a1 * z + l.a2‖ ∧
      ‖(h.b0 : ℂ) * z ^ 2 + h.b1 * z + h.b2‖ = q * ‖z ^ 2 + h.a1 * z + h.a2‖ ∧ 0 < ‖z ^ 2 + h.a1 * z + h.a2‖

/-- R70: while a `PROC` of agent A is in progress, no step of agent B or H changes the CoeffSet it runs with or any filter
state, so what it answers does not depend on them. -/
def Obligations.CoefficientsFixedDuringProc : Prop :=
  ∀ (s t : State) (p : Port) (sp : Bool) (es : List Event) (n : Nat) (samples : List Word),
    s.FifoInv → s.ports.a.busy = some (.procRun n samples) → p ≠ .A → s.sched = .turn p sp :: es →
    step s = .next t →
    t.ports.a.busy = some (.procRun n samples) ∧ t.act = s.act ∧
      (processChannels (Numeric.arith t.cfg.num) t.act n t.chans samples).1 =
        (processChannels (Numeric.arith s.cfg.num) s.act n s.chans samples).1

/-! ## Parameter store, tick and poll -/

/-- R242, R24, R25: a parameter write stores the register's field, dropping the bits above it, and sets `PCHG`; a
configuration write in its range stores its field and does not. Nothing else changes. -/
def Obligations.WrrResult : Prop :=
  ∀ (s : State) (v : Word),
    (s.cur = .H →
      exec (.wrr 0x00 v) s = .next (State.finish
        { s with pchg := true, params := { s.params with peakFreq := some v } } (respond .ok 0)) ∧
      exec (.wrr 0x01 v) s = .next (State.finish
        { s with pchg := true, params := { s.params with peakGain := some v } } (respond .ok 0)) ∧
      exec (.wrr 0x02 v) s = .next (State.finish
        { s with pchg := true, params := { s.params with peakQ := some v } } (respond .ok 0)) ∧
      exec (.wrr 0x03 v) s = .next (State.finish
        { s with pchg := true, params := { s.params with loCutFreq := some v } } (respond .ok 0)) ∧
      exec (.wrr 0x04 v) s = .next (State.finish
        { s with pchg := true, params := { s.params with hiCutFreq := some v } } (respond .ok 0)) ∧
      exec (.wrr 0x05 v) s = .next (State.finish
        { s with pchg := true, params := { s.params with loCutSlope := some (v.extractLsb' 0 3) } } (respond .ok 0)) ∧
      exec (.wrr 0x06 v) s = .next (State.finish
        { s with pchg := true, params := { s.params with hiCutSlope := some (v.extractLsb' 0 3) } } (respond .ok 0)) ∧
      exec (.wrr 0x07 v) s = .next (State.finish
        { s with pchg := true, params := { s.params with bypass := some (v.extractLsb' 0 3) } } (respond .ok 0)) ∧
      exec (.wrr 0x08 v) s = .next (State.finish
        { s with pchg := true, params := { s.params with anEn := some (v.extractLsb' 0 1) } } (respond .ok 0))) ∧
    (s.cur = .B →
      (Numeric.finite s.cfg.num v = true →
        exec (.wrr 0x10 v) s = .next (State.finish { s with floorDb := v } (respond .ok 0))) ∧
      (1 ≤ (v.extractLsb' 0 13).toNat → (v.extractLsb' 0 13).toNat ≤ 4096 →
        exec (.wrr 0x11 v) s = .next (State.finish { s with stride := v.extractLsb' 0 13 } (respond .ok 0))) ∧
      (1 ≤ (v.extractLsb' 0 14).toNat → (v.extractLsb' 0 14).toNat ≤ 8192 →
        exec (.wrr 0x12 v) s = .next (State.finish { s with blkLen := some (v.extractLsb' 0 14) } (respond .ok 0))))

/-- R243, R23, R26: a read of a written register answers one word, its field with zeros above, and changes nothing else;
a parameter or configuration register reads back what was written to it; the fields of the status registers. -/
def Obligations.RdrResult : Prop :=
  (∀ (s : State) (r : BitVec 8) (reg : Reg) (v : Word), regOf s.nch r = some reg → s.readReg reg = some v →
      exec (.rdr r) s = .next (s.finish { status := .ok, value := 1, payload := [v] })) ∧
    (∀ (s t : State) (r : BitVec 8) (v : Word) (sp : Bool) (p : Port), exec (.wrr r v) s = .next t →
      causeOf (.wrr r v) s = none →
      exec (.rdr r) { t with turn := { port := p, split := sp } } =
        .next (State.finish { t with turn := { port := p, split := sp } }
          { status := .ok, value := 1
            payload := [v &&& (if r = 0x05 ∨ r = 0x06 ∨ r = 0x07 then 0x7#32 else if r = 0x08 then 0x1#32
              else if r = 0x11 then 0x1FFF#32 else if r = 0x12 then 0x3FFF#32 else 0xFFFFFFFF#32)] })) ∧
    ∀ s : State, ∃ st ec ew : Word,
      exec (.rdr 0x20) s = .next (s.finish { status := .ok, value := 1, payload := [st] }) ∧
      exec (.rdr 0x21) s = .next (s.finish { status := .ok, value := 1, payload := [ec] }) ∧
      exec (.rdr 0x22) s = .next (s.finish { status := .ok, value := 1, payload := [ew] }) ∧
      st.getLsbD 0 = s.pchg ∧ st.getLsbD 1 = s.mbox.isSome ∧ st.getLsbD 2 = s.settings.isSome ∧
      st.getLsbD 3 = s.newc.isSome ∧ st.getLsbD 4 = s.err.valid ∧ (∀ j, 5 ≤ j → st.getLsbD j = false) ∧
      ec.getLsbD 31 = s.err.valid ∧ ec.extractLsb' 4 2 = s.err.port ∧ ec.extractLsb' 0 4 = s.err.cause ∧
      ec.extractLsb' 6 25 = 0 ∧ (s.err.valid = true → ew = s.err.word) ∧ (s.err.valid = false → ew = 0) ∧
      ∀ ch, ch < s.nch → ch < 16 →
        (∀ o, (s.chan ch).ord = some o →
          exec (.rdr (BitVec.ofNat 8 (0x30 + ch))) s =
            .next (s.finish { status := .ok, value := 1, payload := [BitVec.ofNat 32 o.log2] })) ∧
        ((s.chan ch).ord = none →
          exec (.rdr (BitVec.ofNat 8 (0x30 + ch))) s = .next (s.finish { status := .ok, value := 1, payload := [0] }))

/-- R244, R245, R247, R248: `SNAP` latches the nine registers into `SET`; `TCLR` answers and clears `PCHG`; `TICK` does
nothing on a clear flag, and on a set one it clears it and leaves `SET`, `NEWC` and `MBOX` as `SNAP`, `CCOEF : fs`,
`APPLY` would. That it completes outside the domain of R202 is the model's choice (notes/assumptions/5.md). -/
def Obligations.SnapTclrTickResult : Prop :=
  ∀ (s : State) (fs pf pg pq lf hf : Word) (ls hs by3 : BitVec 3) (an : BitVec 1), s.cur = .B →
    exec .tclr s = .next (State.finish { s with pchg := false } (respond .ok (if s.pchg then 1 else 0))) ∧
    (s.pchg = false → exec (.tick fs) s = .next (s.finish (respond .ok 0))) ∧
    (s.params = { peakFreq := some pf, peakGain := some pg, peakQ := some pq, loCutFreq := some lf
                  hiCutFreq := some hf, loCutSlope := some ls, hiCutSlope := some hs, bypass := some by3
                  anEn := some an } →
      let c : ChainSettings Word :=
        { peakFreqHz := pf, peakGainDb := pg, peakQuality := pq, lowCutFreqHz := lf, highCutFreqHz := hf
          lowCutSlopeOrder := ls, highCutSlopeOrder := hs, peakBypassed := by3.getLsbD 0
          lowCutBypassed := by3.getLsbD 1, highCutBypassed := by3.getLsbD 2, analyzerEnabled := an.getLsbD 0 }
      exec .snap s = .next (State.finish { s with settings := some c } (respond .ok 0)) ∧
      (s.pchg = true → s.turn.split = false → ∃ u, runCommands [.snap, .ccoef fs, .apply] s = some u ∧
        u.settings = some c ∧
        (validSettings s.cfg.num c fs = true →
          u.newc = some (design (Numeric.arith s.cfg.num) c fs) ∧
            u.mbox = some (design (Numeric.arith s.cfg.num) c fs)) ∧
        exec (.tick fs) s = .next (State.finish { s with
          pchg := false, settings := u.settings, newc := u.newc, mbox := u.mbox, freeCtr := u.freeCtr }
          (respond .ok 1))))

/-- R27: `PCHG` is set by every accepted write of a parameter register, cleared by `TCLR` and `TICK`, shown in STATUS bit
0, 0 after reset, and written by nothing else. -/
def Obligations.PchgRule : Prop :=
  (∀ (i : Instr) (s t : State), exec i s = .next t → causeOf i s = none →
      (∀ r v, i = .wrr r v → r.toNat ≤ 8 → t.pchg = true) ∧
      ((i = .tclr ∨ ∃ fs, i = .tick fs) → t.pchg = false) ∧
      (t.pchg ≠ s.pchg → (∃ r v, i = .wrr r v ∧ r.toNat ≤ 8) ∨ i = .tclr ∨ ∃ fs, i = .tick fs)) ∧
    (∀ (i : Instr) (s t : State) (c : Cause), exec i s = .next t → causeOf i s = some c → t.pchg = s.pchg) ∧
    (∀ (m : Micro) (s : State), (s.microStep m).pchg = s.pchg) ∧
    (∀ s : State, ∃ w, s.readReg .status = some w ∧ w.getLsbD 0 = s.pchg) ∧
    ∀ (cfg : Config) (nch : Nat), (State.resetFor cfg nch).pchg = false

/-- R71: a parameter write between the test-and-clear of a `TICK` and its latch is latched by that `TICK` and leaves
`PCHG` set for the next one. That the `TICK` completes outside the domain of R202 is the model's choice
(notes/assumptions/5.md). -/
def Obligations.NoLostUpdate : Prop :=
  ∀ (s s1 s2 : State) (fs v : Word) (r : BitVec 8) (sp sp' : Bool), s.cur = .B → s.turn.split = true → s.pchg = true →
    causeOf (.tick fs) s = none → r.toNat ≤ 8 → exec (.tick fs) s = .next s1 →
    exec (.wrr r v) { s1 with turn := { port := .H, split := sp } } = .next s2 →
    let s3 := State.settle 3 { s2 with turn := { port := .B, split := sp' } }
    s1.pchg = false ∧ s3.pchg = true ∧ s3.settings = s2.params.snapshot ∧ s3.settings.isSome = true ∧
      s3.mbox = s3.newc ∧ s3.ports.b.busy = none ∧ s3.ports.b.pc = s.ports.b.pc + 1

/-- R250, R251: `POLL` is its phases: one `RFEED` and one `SPEC` per block available at its start, one `CGEN` per spectrum
then queued, one `CGET`; its answer is the curve, and bit 27 says whether it was replaced. -/
def Obligations.PollResult : Prop :=
  ∀ (s : State) (ch : BitVec 4) (fs bx bt bw bh : Word) (o : Order),
    let c := s.chan ch.toNat
    let binw := Numeric.div s.cfg.num fs (Numeric.ofRat s.cfg.num ((o.size : Nat) : ℚ))
    s.cur = .B → s.turn.split = false → ch.toNat < s.nch → c.ord = some o → c.sf.prepared = true →
    c.mf.prepared = true → c.cf.prepared = true → c.sf.shape ≤ o.size → s.FifoInv → s.ConfigRegsOk →
    ∃ s1 s2 s3 t,
      runCommands ((List.replicate (c.sf.wr - c.sf.rd) [Instr.rfeed ch, Instr.spec ch s.floorDb]).flatten) s = some s1 ∧
      runCommands (List.replicate ((s1.chan ch.toNat).mf.wr - (s1.chan ch.toNat).mf.rd)
        (Instr.cgen ch bx bt bw bh binw s.floorDb)) s1 = some s2 ∧
      runCommands [Instr.cget ch] s2 = some s3 ∧
      exec (.poll ch fs bx bt bw bh) s = .next t ∧
      t = State.finish { s with chans := s3.chans }
        { status := .ok
          value := BitVec.ofNat 28
            ((if (s2.chan ch.toNat).cf.rd < (s2.chan ch.toNat).cf.wr then 2 ^ 27 else 0) +
              (s3.chan ch.toNat).curve.length)
          payload := (s3.chan ch.toNat).curve.flatMap fun p => [p.x, p.y] }

/-- R7, R25, R41, R271: every step keeps the configuration registers legal and the fault record well formed, and changes no
parameter of the implementation. -/
def Obligations.RegisterInvariant : Prop :=
  ∀ s t : State, s.ConfigRegsOk → s.err.Ok → (Numeric.finite s.cfg.num (Numeric.ofRat s.cfg.num (-48)) = true) →
    step s = .next t → t.ConfigRegsOk ∧ t.err.Ok ∧ t.cfg = s.cfg ∧ t.nch = s.nch ∧ (s.ParamsOk → t.ParamsOk)

/-! ## Frames -/

/-- R63, R127, R128, R188, R213, R243: the reading commands change nothing but their own port, whose stream stays, and,
when refused, `ERR`. -/
def Obligations.QueryFrame : Prop :=
  ∀ (i : Instr) (s t : State),
    (i = .rdcoef ∨ (∃ ch k, i = .favail ch k) ∨ (∃ ch k, i = .fovf ch k) ∨ (∃ ch, i = .rdcrv ch) ∨ ∃ r, i = .rdr r) →
    exec i s = .next t →
    (∃ r, t = { s with
      err := t.err
      ports := s.ports.set s.cur
        { stream := (s.port s.cur).stream, pc := (s.port s.cur).pc + 1, busy := none
          out := r :: (s.port s.cur).out } }) ∧ (causeOf i s = none → t.err = s.err)

/-- R124 to R126, R142, R158, R160, R186, R187, R250, R272: a command on one channel changes only that channel, and of it
no filter state, and when refused no channel at all. What each may change of the channel: a command on one FIFO leaves
the others; a push stores to slot `wr mod C` of its own FIFO alone, and only when there is room. -/
def Obligations.ChannelFrame : Prop :=
  (∀ (i : Instr) (ch : BitVec 4) (s t : State),
      ((∃ k cap, i = .fprep ch k cap) ∨ (∃ k xs, i = .fpush ch k xs) ∨ (∃ k, i = .fpull ch k) ∨
        (∃ ord, i = .chord ch ord) ∨ i = .rfeed ch ∨ (∃ f, i = .spec ch f) ∨
        (∃ bx bt bw bh b f, i = .cgen ch bx bt bw bh b f) ∨ i = .cget ch ∨
        ∃ fs bx bt bw bh, i = .poll ch fs bx bt bw bh) →
      exec i s = .next t →
      t = { s with err := t.err, ports := t.ports, chans := t.chans } ∧ t.nch = s.nch ∧
        (∀ d, d ≠ ch.toNat → t.chan d = s.chan d) ∧ (t.chan ch.toNat).z = (s.chan ch.toNat).z ∧
        (causeOf i s ≠ none → t.chans = s.chans)) ∧
    ∀ (ch : BitVec 4) (s t : State),
      let c := s.chan ch.toNat
      let c' := t.chan ch.toNat
      (∀ cap, exec (.fprep ch 0 cap) s = .next t → c' = { c with sf := c'.sf }) ∧
      (∀ cap, exec (.fprep ch 1 cap) s = .next t → c' = { c with mf := c'.mf }) ∧
      (∀ cap, exec (.fprep ch 2 cap) s = .next t → c' = { c with cf := c'.cf }) ∧
      (∀ xs, exec (.fpush ch 0 xs) s = .next t →
        c' = { c with sf := { c.sf with slots := c'.sf.slots, wr := c'.sf.wr, ovf := c'.sf.ovf } } ∧
        (∀ j, j ≠ c.sf.wr % c.sf.cap → c'.sf.slots[j]? = c.sf.slots[j]?) ∧
        (c.sf.cap ≤ c.sf.wr - c.sf.rd → c'.sf.slots = c.sf.slots)) ∧
      (∀ xs, exec (.fpush ch 1 xs) s = .next t →
        c' = { c with mf := { c.mf with slots := c'.mf.slots, wr := c'.mf.wr, ovf := c'.mf.ovf } } ∧
        (∀ j, j ≠ c.mf.wr % c.mf.cap → c'.mf.slots[j]? = c.mf.slots[j]?) ∧
        (c.mf.cap ≤ c.mf.wr - c.mf.rd → c'.mf.slots = c.mf.slots)) ∧
      (∀ xs, exec (.fpush ch 2 xs) s = .next t →
        c' = { c with cf := { c.cf with slots := c'.cf.slots, wr := c'.cf.wr, ovf := c'.cf.ovf } } ∧
        (∀ j, j ≠ c.cf.wr % c.cf.cap → c'.cf.slots[j]? = c.cf.slots[j]?) ∧
        (c.cf.cap ≤ c.cf.wr - c.cf.rd → c'.cf.slots = c.cf.slots)) ∧
      (exec (.fpull ch 0) s = .next t → c' = { c with sf := { c.sf with rd := c'.sf.rd } }) ∧
      (exec (.fpull ch 1) s = .next t → c' = { c with mf := { c.mf with rd := c'.mf.rd } }) ∧
      (exec (.fpull ch 2) s = .next t → c' = { c with cf := { c.cf with rd := c'.cf.rd } }) ∧
      (exec (.rfeed ch) s = .next t → c' = { c with win := c'.win, sf := { c.sf with rd := c'.sf.rd } }) ∧
      (∀ ord, exec (.chord ch ord) s = .next t →
        c' = { c with ord := c'.ord, win := c'.win, mf := c'.mf } ∧ (c.mf.prepared = false → c'.mf = c.mf)) ∧
      (∀ f, exec (.spec ch f) s = .next t →
        c' = { c with mf := { c.mf with slots := c'.mf.slots, wr := c'.mf.wr, ovf := c'.mf.ovf } } ∧
        (∀ j, j ≠ c.mf.wr % c.mf.cap → c'.mf.slots[j]? = c.mf.slots[j]?) ∧
        (c.mf.cap ≤ c.mf.wr - c.mf.rd → c'.mf.slots = c.mf.slots)) ∧
      (∀ bx bt bw bh b f, exec (.cgen ch bx bt bw bh b f) s = .next t →
        c' = { c with
          mf := { c.mf with rd := c'.mf.rd }
          cf := { c.cf with slots := c'.cf.slots, wr := c'.cf.wr, ovf := c'.cf.ovf } } ∧
        (∀ j, j ≠ c.cf.wr % c.cf.cap → c'.cf.slots[j]? = c.cf.slots[j]?) ∧
        (c.cf.cap ≤ c.cf.wr - c.cf.rd ∨ c.mf.wr ≤ c.mf.rd → c'.cf.slots = c.cf.slots)) ∧
      (exec (.cget ch) s = .next t → c' = { c with curve := c'.curve, cf := { c.cf with rd := c'.cf.rd } }) ∧
      ∀ fs bx bt bw bh, exec (.poll ch fs bx bt bw bh) s = .next t →
        c' = { c with
          sf := { c.sf with rd := c'.sf.rd }
          win := c'.win
          mf := { c.mf with slots := c'.mf.slots, wr := c'.mf.wr, rd := c'.mf.rd, ovf := c'.mf.ovf }
          cf := { c.cf with slots := c'.cf.slots, wr := c'.cf.wr, rd := c'.cf.rd, ovf := c'.cf.ovf }
          curve := c'.curve } ∧
        (∀ j, (∀ n, c.mf.wr ≤ n → n < c'.mf.wr → j ≠ n % c.mf.cap) → c'.mf.slots[j]? = c.mf.slots[j]?) ∧
        ∀ j, (∀ n, c.cf.wr ≤ n → n < c'.cf.wr → j ≠ n % c.cf.cap) → c'.cf.slots[j]? = c.cf.slots[j]?

/-- R210, R212, R214, R242, R245, R247, R248: what the filter, register and tick commands leave unchanged. -/
def Obligations.FilterAndRegisterFrame : Prop :=
  ∀ s t : State,
    (∀ fs, exec (.ccoef fs) s = .next t →
      t = { s with err := t.err, ports := t.ports, newc := t.newc, freeCtr := t.freeCtr }) ∧
    (exec .apply s = .next t → t = { s with err := t.err, ports := t.ports, mbox := t.mbox }) ∧
    (∀ n xs, exec (.proc n xs) s = .next t →
      t = { s with err := t.err, ports := t.ports, act := t.act, mbox := t.mbox, chans := t.chans } ∧
      t.nch = s.nch ∧ ∀ d, t.chan d = { s.chan d with z := (t.chan d).z }) ∧
    (∀ r v, exec (.wrr r v) s = .next t →
      t = { s with err := t.err, ports := t.ports, params := t.params, pchg := t.pchg, floorDb := t.floorDb
                   stride := t.stride, blkLen := t.blkLen } ∧
      ∀ r', r' ≠ r → r' ≠ 0x20 → r' ≠ 0x21 → r' ≠ 0x22 → ∀ reg, regOf s.nch r' = some reg →
        t.readReg reg = s.readReg reg) ∧
    (exec .snap s = .next t → t = { s with err := t.err, ports := t.ports, settings := t.settings }) ∧
    (exec .tclr s = .next t → t = { s with err := t.err, ports := t.ports, pchg := t.pchg }) ∧
    ∀ fs, exec (.tick fs) s = .next t →
      t = { s with err := t.err, ports := t.ports, pchg := t.pchg, settings := t.settings, newc := t.newc
                   mbox := t.mbox, freeCtr := t.freeCtr }

/-! ## Supplied number formats -/

/-- R12: the table of primitives is a configuration field. Whatever number format is given, on any finitely many
operands a configuration stores what it stores and rounds as it rounds, its real functions among them; and a `PROC`
can be configured to compute its outputs and states in that format. (That a state holds the format as a table of
operands is the model's choice, notes/assumptions/12.md.) -/
def Obligations.SuppliedFormat : Prop :=
  (∀ (F : NumberFormat ℚ Word) (id : Nat) (ws : List Word) (es : List Ext) (rs : List (RealFn × ℚ)),
      ∃ t : FormatTable,
        (∀ w ∈ ws, Numeric.value (.other id t) w = F.value w) ∧ (∀ e ∈ es, Numeric.rnd (.other id t) e = F.rnd e) ∧
          ∀ p ∈ rs, (NumFormat.other id t).format.rndReal p.1 p.2 = F.rndReal p.1 p.2) ∧
    ∀ (F : NumberFormat ℚ Word) (id : Nat) (s : State) (n : BitVec 18) (samples : List Word),
      s.cur = .A → s.turn.split = false → ∃ t : FormatTable,
        let u := { s with cfg := { s.cfg with num := .other id t } }
        let act := match s.mbox with
          | some c => c
          | none => s.act
        let slice := fun c : Nat => (samples.drop (c * n.toNat)).take n.toNat
        let run := fun c : Nat => processSamples F.arith act (s.chan c).z (slice c)
        exec (.proc n samples) u = .next (State.finish { u with
          act := act
          mbox := none
          chans := (List.range s.nch).map fun c => { s.chan c with z := (run c).2 } }
          { status := .ok, value := BitVec.ofNat 28 n.toNat
            payload := (List.range s.nch).flatMap fun c => (run c).1 })
end

