-- ==== Sys2Proof/Laws/Decode.lean ====
section
/-!
SUPPORT. The small laws of the encoding: the fields of a command word, the opcode lookup, and the payload.
-/

namespace Sys2Proof

@[simp] theorem opField_mkWord (op : BitVec 8) (ch : BitVec 4) (k : BitVec 2) (imm : BitVec 18) :
    opField (mkWord op ch k imm) = op := by
  ext i hi
  simp only [opField, mkWord, BitVec.getElem_extractLsb', BitVec.getLsbD_append]
  have h1 : ¬ 24 + i < 18 := by omega
  have h2 : ¬ 24 + i - 18 < 2 := by omega
  have h3 : ¬ 24 + i - 18 - 2 < 4 := by omega
  have h4 : 24 + i - 18 - 2 - 4 = i := by omega
  simp [h1, h2, h3, h4, hi]

@[simp] theorem chField_mkWord (op : BitVec 8) (ch : BitVec 4) (k : BitVec 2) (imm : BitVec 18) :
    chField (mkWord op ch k imm) = ch := by
  ext i hi
  simp only [chField, mkWord, BitVec.getElem_extractLsb', BitVec.getLsbD_append]
  have h1 : ¬ 20 + i < 18 := by omega
  have h2 : ¬ 20 + i - 18 < 2 := by omega
  have h3 : 20 + i - 18 - 2 < 4 := by omega
  have h4 : 20 + i - 18 - 2 = i := by omega
  simp [h1, h2, h4, hi]

@[simp] theorem kField_mkWord (op : BitVec 8) (ch : BitVec 4) (k : BitVec 2) (imm : BitVec 18) :
    kField (mkWord op ch k imm) = k := by
  ext i hi
  simp only [kField, mkWord, BitVec.getElem_extractLsb', BitVec.getLsbD_append]
  have h1 : ¬ 18 + i < 18 := by omega
  have h4 : 18 + i - 18 = i := by omega
  simp [h4, hi]

@[simp] theorem immField_mkWord (op : BitVec 8) (ch : BitVec 4) (k : BitVec 2) (imm : BitVec 18) :
    immField (mkWord op ch k imm) = imm := by
  ext i hi
  simp only [immField, mkWord, BitVec.getElem_extractLsb', BitVec.getLsbD_append]
  simp [hi]

theorem regField_mkWord (op : BitVec 8) (ch : BitVec 4) (k : BitVec 2) (imm : BitVec 18) :
    regField (mkWord op ch k imm) = imm.setWidth 8 := by
  ext i hi
  simp only [regField, mkWord, BitVec.getElem_extractLsb', BitVec.getLsbD_append, BitVec.getElem_setWidth]
  have h1 : i < 18 := by omega
  simp [h1]

@[simp] theorem regField_mkWord_reg (op : BitVec 8) (ch : BitVec 4) (k : BitVec 2) (r : BitVec 8) :
    regField (mkWord op ch k (r.setWidth 18)) = r := by
  rw [regField_mkWord]
  ext i hi
  simp

/-- A register number leaves the bits above it zero. -/
@[simp] theorem setWidth_reg_shiftRight (r : BitVec 8) : (r.setWidth 18 : BitVec 18) >>> 8 = 0 := by
  ext i hi
  simp

/-- A word is made of its four fields. -/
theorem mkWord_fields (w : Word) : mkWord (opField w) (chField w) (kField w) (immField w) = w := by
  ext i hi
  simp only [opField, chField, kField, immField, mkWord, ← BitVec.getLsbD_eq_getElem, BitVec.getLsbD_append,
    BitVec.getLsbD_extractLsb']
  split
  · next h => simp [h]
  · split
    · next h1 h2 =>
      have e : 18 + (i - 18) = i := by omega
      simp [h2, e]
    · split
      · next h1 h2 h3 =>
        have e : 20 + (i - 18 - 2) = i := by omega
        simp [h3, e]
      · next h1 h2 h3 =>
        have e : 24 + (i - 18 - 2 - 4) = i := by omega
        have e' : i - 18 - 2 - 4 < 8 := by omega
        simp [e, e']

/-- Each opcode is found by its code. -/
@[simp] theorem opOfCode_code (o : Op) : opOfCode o.code = some o := by
  cases o <;> rfl

/-- A code names at most the opcode whose code it is. -/
theorem opOfCode_eq_some (c : BitVec 8) (o : Op) : opOfCode c = some o ↔ o.code = c := by
  constructor
  · intro h
    have := List.find?_some h
    simpa using this
  · rintro rfl
    exact opOfCode_code o

/-- The command word of an instruction selects an opcode whose unused fields are zero. -/
theorem Instr.word_selects (i : Instr) : ∃ o : Op, opOfCode (opField i.word) = some o ∧ o.format.unusedZero i.word = true := by
  cases i <;> simp only [Instr.word, opField_mkWord, opOfCode_code] <;>
    exact ⟨_, rfl, by simp [Op.format, Format.unusedZero]⟩

end Sys2Proof
end

