-- ==== Sys2Proof/Laws/State.lean ====
section
/-!
SUPPORT. One lemma per field per state update, each by unfolding the update once, and the basic laws of ports and
channels. Later proofs use these and never unfold a record update.
-/

namespace Sys2Proof.Machine

/-! ## Ports -/

@[simp] theorem Ports.get_set_same (ps : Ports) (p : Port) (v : PortState) : (ps.set p v).get p = v := by
  cases p <;> rfl

theorem Ports.get_set_ne (ps : Ports) (p r : Port) (v : PortState) (h : r ≠ p) : (ps.set p v).get r = ps.get r := by
  cases p <;> cases r <;> first | rfl | exact absurd rfl h

@[simp] theorem Ports.set_set (ps : Ports) (p : Port) (v w : PortState) : (ps.set p v).set p w = ps.set p w := by
  cases p <;> rfl

/-! ## Updates of a port -/

@[simp] theorem State.setPort_cfg (s : State) (p : Port) (v : PortState) : (s.setPort p v).cfg = s.cfg := rfl
@[simp] theorem State.setPort_params (s : State) (p : Port) (v : PortState) : (s.setPort p v).params = s.params := rfl
@[simp] theorem State.setPort_floorDb (s : State) (p : Port) (v : PortState) : (s.setPort p v).floorDb = s.floorDb := rfl
@[simp] theorem State.setPort_stride (s : State) (p : Port) (v : PortState) : (s.setPort p v).stride = s.stride := rfl
@[simp] theorem State.setPort_blkLen (s : State) (p : Port) (v : PortState) : (s.setPort p v).blkLen = s.blkLen := rfl
@[simp] theorem State.setPort_pchg (s : State) (p : Port) (v : PortState) : (s.setPort p v).pchg = s.pchg := rfl
@[simp] theorem State.setPort_settings (s : State) (p : Port) (v : PortState) : (s.setPort p v).settings = s.settings := rfl
@[simp] theorem State.setPort_newc (s : State) (p : Port) (v : PortState) : (s.setPort p v).newc = s.newc := rfl
@[simp] theorem State.setPort_act (s : State) (p : Port) (v : PortState) : (s.setPort p v).act = s.act := rfl
@[simp] theorem State.setPort_mbox (s : State) (p : Port) (v : PortState) : (s.setPort p v).mbox = s.mbox := rfl
@[simp] theorem State.setPort_chans (s : State) (p : Port) (v : PortState) : (s.setPort p v).chans = s.chans := rfl
@[simp] theorem State.setPort_err (s : State) (p : Port) (v : PortState) : (s.setPort p v).err = s.err := rfl
@[simp] theorem State.setPort_turn (s : State) (p : Port) (v : PortState) : (s.setPort p v).turn = s.turn := rfl
@[simp] theorem State.setPort_sched (s : State) (p : Port) (v : PortState) : (s.setPort p v).sched = s.sched := rfl
@[simp] theorem State.setPort_freeCtr (s : State) (p : Port) (v : PortState) : (s.setPort p v).freeCtr = s.freeCtr := rfl

@[simp] theorem State.setStream_cfg (s : State) (ws : List Word) : (s.setStream ws).cfg = s.cfg := rfl
@[simp] theorem State.setStream_params (s : State) (ws : List Word) : (s.setStream ws).params = s.params := rfl
@[simp] theorem State.setStream_floorDb (s : State) (ws : List Word) : (s.setStream ws).floorDb = s.floorDb := rfl
@[simp] theorem State.setStream_stride (s : State) (ws : List Word) : (s.setStream ws).stride = s.stride := rfl
@[simp] theorem State.setStream_blkLen (s : State) (ws : List Word) : (s.setStream ws).blkLen = s.blkLen := rfl
@[simp] theorem State.setStream_pchg (s : State) (ws : List Word) : (s.setStream ws).pchg = s.pchg := rfl
@[simp] theorem State.setStream_settings (s : State) (ws : List Word) : (s.setStream ws).settings = s.settings := rfl
@[simp] theorem State.setStream_newc (s : State) (ws : List Word) : (s.setStream ws).newc = s.newc := rfl
@[simp] theorem State.setStream_act (s : State) (ws : List Word) : (s.setStream ws).act = s.act := rfl
@[simp] theorem State.setStream_mbox (s : State) (ws : List Word) : (s.setStream ws).mbox = s.mbox := rfl
@[simp] theorem State.setStream_chans (s : State) (ws : List Word) : (s.setStream ws).chans = s.chans := rfl
@[simp] theorem State.setStream_err (s : State) (ws : List Word) : (s.setStream ws).err = s.err := rfl
@[simp] theorem State.setStream_turn (s : State) (ws : List Word) : (s.setStream ws).turn = s.turn := rfl
@[simp] theorem State.setStream_sched (s : State) (ws : List Word) : (s.setStream ws).sched = s.sched := rfl
@[simp] theorem State.setStream_freeCtr (s : State) (ws : List Word) : (s.setStream ws).freeCtr = s.freeCtr := rfl

@[simp] theorem State.setBusy_cfg (s : State) (m : Micro) : (s.setBusy m).cfg = s.cfg := rfl
@[simp] theorem State.setBusy_params (s : State) (m : Micro) : (s.setBusy m).params = s.params := rfl
@[simp] theorem State.setBusy_floorDb (s : State) (m : Micro) : (s.setBusy m).floorDb = s.floorDb := rfl
@[simp] theorem State.setBusy_stride (s : State) (m : Micro) : (s.setBusy m).stride = s.stride := rfl
@[simp] theorem State.setBusy_blkLen (s : State) (m : Micro) : (s.setBusy m).blkLen = s.blkLen := rfl
@[simp] theorem State.setBusy_pchg (s : State) (m : Micro) : (s.setBusy m).pchg = s.pchg := rfl
@[simp] theorem State.setBusy_settings (s : State) (m : Micro) : (s.setBusy m).settings = s.settings := rfl
@[simp] theorem State.setBusy_newc (s : State) (m : Micro) : (s.setBusy m).newc = s.newc := rfl
@[simp] theorem State.setBusy_act (s : State) (m : Micro) : (s.setBusy m).act = s.act := rfl
@[simp] theorem State.setBusy_mbox (s : State) (m : Micro) : (s.setBusy m).mbox = s.mbox := rfl
@[simp] theorem State.setBusy_chans (s : State) (m : Micro) : (s.setBusy m).chans = s.chans := rfl
@[simp] theorem State.setBusy_err (s : State) (m : Micro) : (s.setBusy m).err = s.err := rfl
@[simp] theorem State.setBusy_turn (s : State) (m : Micro) : (s.setBusy m).turn = s.turn := rfl
@[simp] theorem State.setBusy_sched (s : State) (m : Micro) : (s.setBusy m).sched = s.sched := rfl
@[simp] theorem State.setBusy_freeCtr (s : State) (m : Micro) : (s.setBusy m).freeCtr = s.freeCtr := rfl

@[simp] theorem State.finish_cfg (s : State) (r : Response) : (s.finish r).cfg = s.cfg := rfl
@[simp] theorem State.finish_params (s : State) (r : Response) : (s.finish r).params = s.params := rfl
@[simp] theorem State.finish_floorDb (s : State) (r : Response) : (s.finish r).floorDb = s.floorDb := rfl
@[simp] theorem State.finish_stride (s : State) (r : Response) : (s.finish r).stride = s.stride := rfl
@[simp] theorem State.finish_blkLen (s : State) (r : Response) : (s.finish r).blkLen = s.blkLen := rfl
@[simp] theorem State.finish_pchg (s : State) (r : Response) : (s.finish r).pchg = s.pchg := rfl
@[simp] theorem State.finish_settings (s : State) (r : Response) : (s.finish r).settings = s.settings := rfl
@[simp] theorem State.finish_newc (s : State) (r : Response) : (s.finish r).newc = s.newc := rfl
@[simp] theorem State.finish_act (s : State) (r : Response) : (s.finish r).act = s.act := rfl
@[simp] theorem State.finish_mbox (s : State) (r : Response) : (s.finish r).mbox = s.mbox := rfl
@[simp] theorem State.finish_chans (s : State) (r : Response) : (s.finish r).chans = s.chans := rfl
@[simp] theorem State.finish_err (s : State) (r : Response) : (s.finish r).err = s.err := rfl
@[simp] theorem State.finish_turn (s : State) (r : Response) : (s.finish r).turn = s.turn := rfl
@[simp] theorem State.finish_sched (s : State) (r : Response) : (s.finish r).sched = s.sched := rfl
@[simp] theorem State.finish_freeCtr (s : State) (r : Response) : (s.finish r).freeCtr = s.freeCtr := rfl

@[simp] theorem State.receive_cfg (s : State) (p : Port) (ws : List Word) : (s.receive p ws).cfg = s.cfg := rfl
@[simp] theorem State.receive_params (s : State) (p : Port) (ws : List Word) : (s.receive p ws).params = s.params := rfl
@[simp] theorem State.receive_floorDb (s : State) (p : Port) (ws : List Word) : (s.receive p ws).floorDb = s.floorDb := rfl
@[simp] theorem State.receive_stride (s : State) (p : Port) (ws : List Word) : (s.receive p ws).stride = s.stride := rfl
@[simp] theorem State.receive_blkLen (s : State) (p : Port) (ws : List Word) : (s.receive p ws).blkLen = s.blkLen := rfl
@[simp] theorem State.receive_pchg (s : State) (p : Port) (ws : List Word) : (s.receive p ws).pchg = s.pchg := rfl
@[simp] theorem State.receive_settings (s : State) (p : Port) (ws : List Word) : (s.receive p ws).settings = s.settings := rfl
@[simp] theorem State.receive_newc (s : State) (p : Port) (ws : List Word) : (s.receive p ws).newc = s.newc := rfl
@[simp] theorem State.receive_act (s : State) (p : Port) (ws : List Word) : (s.receive p ws).act = s.act := rfl
@[simp] theorem State.receive_mbox (s : State) (p : Port) (ws : List Word) : (s.receive p ws).mbox = s.mbox := rfl
@[simp] theorem State.receive_chans (s : State) (p : Port) (ws : List Word) : (s.receive p ws).chans = s.chans := rfl
@[simp] theorem State.receive_err (s : State) (p : Port) (ws : List Word) : (s.receive p ws).err = s.err := rfl
@[simp] theorem State.receive_turn (s : State) (p : Port) (ws : List Word) : (s.receive p ws).turn = s.turn := rfl
@[simp] theorem State.receive_sched (s : State) (p : Port) (ws : List Word) : (s.receive p ws).sched = s.sched := rfl
@[simp] theorem State.receive_freeCtr (s : State) (p : Port) (ws : List Word) : (s.receive p ws).freeCtr = s.freeCtr := rfl

/-! ## The refusal fault -/

@[simp] theorem State.latchErr_cfg (s : State) (c : Cause) (w : Word) : (s.latchErr c w).cfg = s.cfg := by unfold State.latchErr; split <;> rfl
@[simp] theorem State.latchErr_params (s : State) (c : Cause) (w : Word) : (s.latchErr c w).params = s.params := by unfold State.latchErr; split <;> rfl
@[simp] theorem State.latchErr_floorDb (s : State) (c : Cause) (w : Word) : (s.latchErr c w).floorDb = s.floorDb := by unfold State.latchErr; split <;> rfl
@[simp] theorem State.latchErr_stride (s : State) (c : Cause) (w : Word) : (s.latchErr c w).stride = s.stride := by unfold State.latchErr; split <;> rfl
@[simp] theorem State.latchErr_blkLen (s : State) (c : Cause) (w : Word) : (s.latchErr c w).blkLen = s.blkLen := by unfold State.latchErr; split <;> rfl
@[simp] theorem State.latchErr_pchg (s : State) (c : Cause) (w : Word) : (s.latchErr c w).pchg = s.pchg := by unfold State.latchErr; split <;> rfl
@[simp] theorem State.latchErr_settings (s : State) (c : Cause) (w : Word) : (s.latchErr c w).settings = s.settings := by unfold State.latchErr; split <;> rfl
@[simp] theorem State.latchErr_newc (s : State) (c : Cause) (w : Word) : (s.latchErr c w).newc = s.newc := by unfold State.latchErr; split <;> rfl
@[simp] theorem State.latchErr_act (s : State) (c : Cause) (w : Word) : (s.latchErr c w).act = s.act := by unfold State.latchErr; split <;> rfl
@[simp] theorem State.latchErr_mbox (s : State) (c : Cause) (w : Word) : (s.latchErr c w).mbox = s.mbox := by unfold State.latchErr; split <;> rfl
@[simp] theorem State.latchErr_chans (s : State) (c : Cause) (w : Word) : (s.latchErr c w).chans = s.chans := by unfold State.latchErr; split <;> rfl
@[simp] theorem State.latchErr_ports (s : State) (c : Cause) (w : Word) : (s.latchErr c w).ports = s.ports := by unfold State.latchErr; split <;> rfl
@[simp] theorem State.latchErr_turn (s : State) (c : Cause) (w : Word) : (s.latchErr c w).turn = s.turn := by unfold State.latchErr; split <;> rfl
@[simp] theorem State.latchErr_sched (s : State) (c : Cause) (w : Word) : (s.latchErr c w).sched = s.sched := by unfold State.latchErr; split <;> rfl
@[simp] theorem State.latchErr_freeCtr (s : State) (c : Cause) (w : Word) : (s.latchErr c w).freeCtr = s.freeCtr := by unfold State.latchErr; split <;> rfl

@[simp] theorem State.raise_cfg (s : State) (c : Cause) (w : Word) : (s.raise c w).cfg = s.cfg := by simp [State.raise]
@[simp] theorem State.raise_params (s : State) (c : Cause) (w : Word) : (s.raise c w).params = s.params := by simp [State.raise]
@[simp] theorem State.raise_floorDb (s : State) (c : Cause) (w : Word) : (s.raise c w).floorDb = s.floorDb := by simp [State.raise]
@[simp] theorem State.raise_stride (s : State) (c : Cause) (w : Word) : (s.raise c w).stride = s.stride := by simp [State.raise]
@[simp] theorem State.raise_blkLen (s : State) (c : Cause) (w : Word) : (s.raise c w).blkLen = s.blkLen := by simp [State.raise]
@[simp] theorem State.raise_pchg (s : State) (c : Cause) (w : Word) : (s.raise c w).pchg = s.pchg := by simp [State.raise]
@[simp] theorem State.raise_settings (s : State) (c : Cause) (w : Word) : (s.raise c w).settings = s.settings := by simp [State.raise]
@[simp] theorem State.raise_newc (s : State) (c : Cause) (w : Word) : (s.raise c w).newc = s.newc := by simp [State.raise]
@[simp] theorem State.raise_act (s : State) (c : Cause) (w : Word) : (s.raise c w).act = s.act := by simp [State.raise]
@[simp] theorem State.raise_mbox (s : State) (c : Cause) (w : Word) : (s.raise c w).mbox = s.mbox := by simp [State.raise]
@[simp] theorem State.raise_chans (s : State) (c : Cause) (w : Word) : (s.raise c w).chans = s.chans := by simp [State.raise]
@[simp] theorem State.raise_turn (s : State) (c : Cause) (w : Word) : (s.raise c w).turn = s.turn := by simp [State.raise]
@[simp] theorem State.raise_sched (s : State) (c : Cause) (w : Word) : (s.raise c w).sched = s.sched := by simp [State.raise]
@[simp] theorem State.raise_freeCtr (s : State) (c : Cause) (w : Word) : (s.raise c w).freeCtr = s.freeCtr := by simp [State.raise]

/-! ## Updates of a channel -/

@[simp] theorem State.setChan_cfg (s : State) (ch : Nat) (c : Channel) : (s.setChan ch c).cfg = s.cfg := rfl
@[simp] theorem State.setChan_params (s : State) (ch : Nat) (c : Channel) : (s.setChan ch c).params = s.params := rfl
@[simp] theorem State.setChan_floorDb (s : State) (ch : Nat) (c : Channel) : (s.setChan ch c).floorDb = s.floorDb := rfl
@[simp] theorem State.setChan_stride (s : State) (ch : Nat) (c : Channel) : (s.setChan ch c).stride = s.stride := rfl
@[simp] theorem State.setChan_blkLen (s : State) (ch : Nat) (c : Channel) : (s.setChan ch c).blkLen = s.blkLen := rfl
@[simp] theorem State.setChan_pchg (s : State) (ch : Nat) (c : Channel) : (s.setChan ch c).pchg = s.pchg := rfl
@[simp] theorem State.setChan_settings (s : State) (ch : Nat) (c : Channel) : (s.setChan ch c).settings = s.settings := rfl
@[simp] theorem State.setChan_newc (s : State) (ch : Nat) (c : Channel) : (s.setChan ch c).newc = s.newc := rfl
@[simp] theorem State.setChan_act (s : State) (ch : Nat) (c : Channel) : (s.setChan ch c).act = s.act := rfl
@[simp] theorem State.setChan_mbox (s : State) (ch : Nat) (c : Channel) : (s.setChan ch c).mbox = s.mbox := rfl
@[simp] theorem State.setChan_err (s : State) (ch : Nat) (c : Channel) : (s.setChan ch c).err = s.err := rfl
@[simp] theorem State.setChan_ports (s : State) (ch : Nat) (c : Channel) : (s.setChan ch c).ports = s.ports := rfl
@[simp] theorem State.setChan_turn (s : State) (ch : Nat) (c : Channel) : (s.setChan ch c).turn = s.turn := rfl
@[simp] theorem State.setChan_sched (s : State) (ch : Nat) (c : Channel) : (s.setChan ch c).sched = s.sched := rfl
@[simp] theorem State.setChan_freeCtr (s : State) (ch : Nat) (c : Channel) : (s.setChan ch c).freeCtr = s.freeCtr := rfl

@[simp] theorem State.modChan_cfg (s : State) (ch : Nat) (f : Channel → Channel) : (s.modChan ch f).cfg = s.cfg := rfl
@[simp] theorem State.modChan_params (s : State) (ch : Nat) (f : Channel → Channel) : (s.modChan ch f).params = s.params := rfl
@[simp] theorem State.modChan_floorDb (s : State) (ch : Nat) (f : Channel → Channel) : (s.modChan ch f).floorDb = s.floorDb := rfl
@[simp] theorem State.modChan_stride (s : State) (ch : Nat) (f : Channel → Channel) : (s.modChan ch f).stride = s.stride := rfl
@[simp] theorem State.modChan_blkLen (s : State) (ch : Nat) (f : Channel → Channel) : (s.modChan ch f).blkLen = s.blkLen := rfl
@[simp] theorem State.modChan_pchg (s : State) (ch : Nat) (f : Channel → Channel) : (s.modChan ch f).pchg = s.pchg := rfl
@[simp] theorem State.modChan_settings (s : State) (ch : Nat) (f : Channel → Channel) : (s.modChan ch f).settings = s.settings := rfl
@[simp] theorem State.modChan_newc (s : State) (ch : Nat) (f : Channel → Channel) : (s.modChan ch f).newc = s.newc := rfl
@[simp] theorem State.modChan_act (s : State) (ch : Nat) (f : Channel → Channel) : (s.modChan ch f).act = s.act := rfl
@[simp] theorem State.modChan_mbox (s : State) (ch : Nat) (f : Channel → Channel) : (s.modChan ch f).mbox = s.mbox := rfl
@[simp] theorem State.modChan_err (s : State) (ch : Nat) (f : Channel → Channel) : (s.modChan ch f).err = s.err := rfl
@[simp] theorem State.modChan_ports (s : State) (ch : Nat) (f : Channel → Channel) : (s.modChan ch f).ports = s.ports := rfl
@[simp] theorem State.modChan_turn (s : State) (ch : Nat) (f : Channel → Channel) : (s.modChan ch f).turn = s.turn := rfl
@[simp] theorem State.modChan_sched (s : State) (ch : Nat) (f : Channel → Channel) : (s.modChan ch f).sched = s.sched := rfl
@[simp] theorem State.modChan_freeCtr (s : State) (ch : Nat) (f : Channel → Channel) : (s.modChan ch f).freeCtr = s.freeCtr := rfl

/-! ## Flags, coefficients and registers -/

@[simp] theorem State.setPchg_cfg (s : State) : (s.setPchg).cfg = s.cfg := rfl
@[simp] theorem State.setPchg_params (s : State) : (s.setPchg).params = s.params := rfl
@[simp] theorem State.setPchg_floorDb (s : State) : (s.setPchg).floorDb = s.floorDb := rfl
@[simp] theorem State.setPchg_stride (s : State) : (s.setPchg).stride = s.stride := rfl
@[simp] theorem State.setPchg_blkLen (s : State) : (s.setPchg).blkLen = s.blkLen := rfl
@[simp] theorem State.setPchg_settings (s : State) : (s.setPchg).settings = s.settings := rfl
@[simp] theorem State.setPchg_newc (s : State) : (s.setPchg).newc = s.newc := rfl
@[simp] theorem State.setPchg_act (s : State) : (s.setPchg).act = s.act := rfl
@[simp] theorem State.setPchg_mbox (s : State) : (s.setPchg).mbox = s.mbox := rfl
@[simp] theorem State.setPchg_chans (s : State) : (s.setPchg).chans = s.chans := rfl
@[simp] theorem State.setPchg_err (s : State) : (s.setPchg).err = s.err := rfl
@[simp] theorem State.setPchg_ports (s : State) : (s.setPchg).ports = s.ports := rfl
@[simp] theorem State.setPchg_turn (s : State) : (s.setPchg).turn = s.turn := rfl
@[simp] theorem State.setPchg_sched (s : State) : (s.setPchg).sched = s.sched := rfl
@[simp] theorem State.setPchg_freeCtr (s : State) : (s.setPchg).freeCtr = s.freeCtr := rfl

@[simp] theorem State.clearPchg_cfg (s : State) : (s.clearPchg).cfg = s.cfg := rfl
@[simp] theorem State.clearPchg_params (s : State) : (s.clearPchg).params = s.params := rfl
@[simp] theorem State.clearPchg_floorDb (s : State) : (s.clearPchg).floorDb = s.floorDb := rfl
@[simp] theorem State.clearPchg_stride (s : State) : (s.clearPchg).stride = s.stride := rfl
@[simp] theorem State.clearPchg_blkLen (s : State) : (s.clearPchg).blkLen = s.blkLen := rfl
@[simp] theorem State.clearPchg_settings (s : State) : (s.clearPchg).settings = s.settings := rfl
@[simp] theorem State.clearPchg_newc (s : State) : (s.clearPchg).newc = s.newc := rfl
@[simp] theorem State.clearPchg_act (s : State) : (s.clearPchg).act = s.act := rfl
@[simp] theorem State.clearPchg_mbox (s : State) : (s.clearPchg).mbox = s.mbox := rfl
@[simp] theorem State.clearPchg_chans (s : State) : (s.clearPchg).chans = s.chans := rfl
@[simp] theorem State.clearPchg_err (s : State) : (s.clearPchg).err = s.err := rfl
@[simp] theorem State.clearPchg_ports (s : State) : (s.clearPchg).ports = s.ports := rfl
@[simp] theorem State.clearPchg_turn (s : State) : (s.clearPchg).turn = s.turn := rfl
@[simp] theorem State.clearPchg_sched (s : State) : (s.clearPchg).sched = s.sched := rfl
@[simp] theorem State.clearPchg_freeCtr (s : State) : (s.clearPchg).freeCtr = s.freeCtr := rfl

@[simp] theorem State.postCoeffs_cfg (s : State) : (s.postCoeffs).cfg = s.cfg := rfl
@[simp] theorem State.postCoeffs_params (s : State) : (s.postCoeffs).params = s.params := rfl
@[simp] theorem State.postCoeffs_floorDb (s : State) : (s.postCoeffs).floorDb = s.floorDb := rfl
@[simp] theorem State.postCoeffs_stride (s : State) : (s.postCoeffs).stride = s.stride := rfl
@[simp] theorem State.postCoeffs_blkLen (s : State) : (s.postCoeffs).blkLen = s.blkLen := rfl
@[simp] theorem State.postCoeffs_pchg (s : State) : (s.postCoeffs).pchg = s.pchg := rfl
@[simp] theorem State.postCoeffs_settings (s : State) : (s.postCoeffs).settings = s.settings := rfl
@[simp] theorem State.postCoeffs_newc (s : State) : (s.postCoeffs).newc = s.newc := rfl
@[simp] theorem State.postCoeffs_act (s : State) : (s.postCoeffs).act = s.act := rfl
@[simp] theorem State.postCoeffs_chans (s : State) : (s.postCoeffs).chans = s.chans := rfl
@[simp] theorem State.postCoeffs_err (s : State) : (s.postCoeffs).err = s.err := rfl
@[simp] theorem State.postCoeffs_ports (s : State) : (s.postCoeffs).ports = s.ports := rfl
@[simp] theorem State.postCoeffs_turn (s : State) : (s.postCoeffs).turn = s.turn := rfl
@[simp] theorem State.postCoeffs_sched (s : State) : (s.postCoeffs).sched = s.sched := rfl
@[simp] theorem State.postCoeffs_freeCtr (s : State) : (s.postCoeffs).freeCtr = s.freeCtr := rfl

@[simp] theorem State.takeCoeffs_cfg (s : State) : (s.takeCoeffs).cfg = s.cfg := by unfold State.takeCoeffs; split <;> rfl
@[simp] theorem State.takeCoeffs_params (s : State) : (s.takeCoeffs).params = s.params := by unfold State.takeCoeffs; split <;> rfl
@[simp] theorem State.takeCoeffs_floorDb (s : State) : (s.takeCoeffs).floorDb = s.floorDb := by unfold State.takeCoeffs; split <;> rfl
@[simp] theorem State.takeCoeffs_stride (s : State) : (s.takeCoeffs).stride = s.stride := by unfold State.takeCoeffs; split <;> rfl
@[simp] theorem State.takeCoeffs_blkLen (s : State) : (s.takeCoeffs).blkLen = s.blkLen := by unfold State.takeCoeffs; split <;> rfl
@[simp] theorem State.takeCoeffs_pchg (s : State) : (s.takeCoeffs).pchg = s.pchg := by unfold State.takeCoeffs; split <;> rfl
@[simp] theorem State.takeCoeffs_settings (s : State) : (s.takeCoeffs).settings = s.settings := by unfold State.takeCoeffs; split <;> rfl
@[simp] theorem State.takeCoeffs_newc (s : State) : (s.takeCoeffs).newc = s.newc := by unfold State.takeCoeffs; split <;> rfl
@[simp] theorem State.takeCoeffs_chans (s : State) : (s.takeCoeffs).chans = s.chans := by unfold State.takeCoeffs; split <;> rfl
@[simp] theorem State.takeCoeffs_err (s : State) : (s.takeCoeffs).err = s.err := by unfold State.takeCoeffs; split <;> rfl
@[simp] theorem State.takeCoeffs_ports (s : State) : (s.takeCoeffs).ports = s.ports := by unfold State.takeCoeffs; split <;> rfl
@[simp] theorem State.takeCoeffs_turn (s : State) : (s.takeCoeffs).turn = s.turn := by unfold State.takeCoeffs; split <;> rfl
@[simp] theorem State.takeCoeffs_sched (s : State) : (s.takeCoeffs).sched = s.sched := by unfold State.takeCoeffs; split <;> rfl
@[simp] theorem State.takeCoeffs_freeCtr (s : State) : (s.takeCoeffs).freeCtr = s.freeCtr := by unfold State.takeCoeffs; split <;> rfl

@[simp] theorem State.latchSettings_cfg (s : State) : (s.latchSettings).cfg = s.cfg := by unfold State.latchSettings; split <;> rfl
@[simp] theorem State.latchSettings_params (s : State) : (s.latchSettings).params = s.params := by unfold State.latchSettings; split <;> rfl
@[simp] theorem State.latchSettings_floorDb (s : State) : (s.latchSettings).floorDb = s.floorDb := by unfold State.latchSettings; split <;> rfl
@[simp] theorem State.latchSettings_stride (s : State) : (s.latchSettings).stride = s.stride := by unfold State.latchSettings; split <;> rfl
@[simp] theorem State.latchSettings_blkLen (s : State) : (s.latchSettings).blkLen = s.blkLen := by unfold State.latchSettings; split <;> rfl
@[simp] theorem State.latchSettings_pchg (s : State) : (s.latchSettings).pchg = s.pchg := by unfold State.latchSettings; split <;> rfl
@[simp] theorem State.latchSettings_newc (s : State) : (s.latchSettings).newc = s.newc := by unfold State.latchSettings; split <;> rfl
@[simp] theorem State.latchSettings_act (s : State) : (s.latchSettings).act = s.act := by unfold State.latchSettings; split <;> rfl
@[simp] theorem State.latchSettings_mbox (s : State) : (s.latchSettings).mbox = s.mbox := by unfold State.latchSettings; split <;> rfl
@[simp] theorem State.latchSettings_chans (s : State) : (s.latchSettings).chans = s.chans := by unfold State.latchSettings; split <;> rfl
@[simp] theorem State.latchSettings_err (s : State) : (s.latchSettings).err = s.err := by unfold State.latchSettings; split <;> rfl
@[simp] theorem State.latchSettings_ports (s : State) : (s.latchSettings).ports = s.ports := by unfold State.latchSettings; split <;> rfl
@[simp] theorem State.latchSettings_turn (s : State) : (s.latchSettings).turn = s.turn := by unfold State.latchSettings; split <;> rfl
@[simp] theorem State.latchSettings_sched (s : State) : (s.latchSettings).sched = s.sched := by unfold State.latchSettings; split <;> rfl
@[simp] theorem State.latchSettings_freeCtr (s : State) : (s.latchSettings).freeCtr = s.freeCtr := by unfold State.latchSettings; split <;> rfl

@[simp] theorem State.computeCoeffs_cfg (s : State) (c : ChainSettings Word) (fs : Word) : (s.computeCoeffs c fs).cfg = s.cfg := by unfold State.computeCoeffs; split <;> rfl
@[simp] theorem State.computeCoeffs_params (s : State) (c : ChainSettings Word) (fs : Word) : (s.computeCoeffs c fs).params = s.params := by unfold State.computeCoeffs; split <;> rfl
@[simp] theorem State.computeCoeffs_floorDb (s : State) (c : ChainSettings Word) (fs : Word) : (s.computeCoeffs c fs).floorDb = s.floorDb := by unfold State.computeCoeffs; split <;> rfl
@[simp] theorem State.computeCoeffs_stride (s : State) (c : ChainSettings Word) (fs : Word) : (s.computeCoeffs c fs).stride = s.stride := by unfold State.computeCoeffs; split <;> rfl
@[simp] theorem State.computeCoeffs_blkLen (s : State) (c : ChainSettings Word) (fs : Word) : (s.computeCoeffs c fs).blkLen = s.blkLen := by unfold State.computeCoeffs; split <;> rfl
@[simp] theorem State.computeCoeffs_pchg (s : State) (c : ChainSettings Word) (fs : Word) : (s.computeCoeffs c fs).pchg = s.pchg := by unfold State.computeCoeffs; split <;> rfl
@[simp] theorem State.computeCoeffs_settings (s : State) (c : ChainSettings Word) (fs : Word) : (s.computeCoeffs c fs).settings = s.settings := by unfold State.computeCoeffs; split <;> rfl
@[simp] theorem State.computeCoeffs_act (s : State) (c : ChainSettings Word) (fs : Word) : (s.computeCoeffs c fs).act = s.act := by unfold State.computeCoeffs; split <;> rfl
@[simp] theorem State.computeCoeffs_mbox (s : State) (c : ChainSettings Word) (fs : Word) : (s.computeCoeffs c fs).mbox = s.mbox := by unfold State.computeCoeffs; split <;> rfl
@[simp] theorem State.computeCoeffs_chans (s : State) (c : ChainSettings Word) (fs : Word) : (s.computeCoeffs c fs).chans = s.chans := by unfold State.computeCoeffs; split <;> rfl
@[simp] theorem State.computeCoeffs_err (s : State) (c : ChainSettings Word) (fs : Word) : (s.computeCoeffs c fs).err = s.err := by unfold State.computeCoeffs; split <;> rfl
@[simp] theorem State.computeCoeffs_ports (s : State) (c : ChainSettings Word) (fs : Word) : (s.computeCoeffs c fs).ports = s.ports := by unfold State.computeCoeffs; split <;> rfl
@[simp] theorem State.computeCoeffs_turn (s : State) (c : ChainSettings Word) (fs : Word) : (s.computeCoeffs c fs).turn = s.turn := by unfold State.computeCoeffs; split <;> rfl
@[simp] theorem State.computeCoeffs_sched (s : State) (c : ChainSettings Word) (fs : Word) : (s.computeCoeffs c fs).sched = s.sched := by unfold State.computeCoeffs; split <;> rfl

@[simp] theorem State.tickDesign_cfg (s : State) (fs : Word) : (s.tickDesign fs).cfg = s.cfg := by unfold State.tickDesign; split <;> simp
@[simp] theorem State.tickDesign_params (s : State) (fs : Word) : (s.tickDesign fs).params = s.params := by unfold State.tickDesign; split <;> simp
@[simp] theorem State.tickDesign_floorDb (s : State) (fs : Word) : (s.tickDesign fs).floorDb = s.floorDb := by unfold State.tickDesign; split <;> simp
@[simp] theorem State.tickDesign_stride (s : State) (fs : Word) : (s.tickDesign fs).stride = s.stride := by unfold State.tickDesign; split <;> simp
@[simp] theorem State.tickDesign_blkLen (s : State) (fs : Word) : (s.tickDesign fs).blkLen = s.blkLen := by unfold State.tickDesign; split <;> simp
@[simp] theorem State.tickDesign_pchg (s : State) (fs : Word) : (s.tickDesign fs).pchg = s.pchg := by unfold State.tickDesign; split <;> simp
@[simp] theorem State.tickDesign_settings (s : State) (fs : Word) : (s.tickDesign fs).settings = s.settings := by unfold State.tickDesign; split <;> simp
@[simp] theorem State.tickDesign_act (s : State) (fs : Word) : (s.tickDesign fs).act = s.act := by unfold State.tickDesign; split <;> simp
@[simp] theorem State.tickDesign_mbox (s : State) (fs : Word) : (s.tickDesign fs).mbox = s.mbox := by unfold State.tickDesign; split <;> simp
@[simp] theorem State.tickDesign_chans (s : State) (fs : Word) : (s.tickDesign fs).chans = s.chans := by unfold State.tickDesign; split <;> simp
@[simp] theorem State.tickDesign_err (s : State) (fs : Word) : (s.tickDesign fs).err = s.err := by unfold State.tickDesign; split <;> simp
@[simp] theorem State.tickDesign_ports (s : State) (fs : Word) : (s.tickDesign fs).ports = s.ports := by unfold State.tickDesign; split <;> simp
@[simp] theorem State.tickDesign_turn (s : State) (fs : Word) : (s.tickDesign fs).turn = s.turn := by unfold State.tickDesign; split <;> simp
@[simp] theorem State.tickDesign_sched (s : State) (fs : Word) : (s.tickDesign fs).sched = s.sched := by unfold State.tickDesign; split <;> simp

@[simp] theorem State.storeReg_cfg (s : State) (r : Reg) (v : Word) : (s.storeReg r v).cfg = s.cfg := by cases r <;> rfl
@[simp] theorem State.storeReg_pchg (s : State) (r : Reg) (v : Word) : (s.storeReg r v).pchg = s.pchg := by cases r <;> rfl
@[simp] theorem State.storeReg_settings (s : State) (r : Reg) (v : Word) : (s.storeReg r v).settings = s.settings := by cases r <;> rfl
@[simp] theorem State.storeReg_newc (s : State) (r : Reg) (v : Word) : (s.storeReg r v).newc = s.newc := by cases r <;> rfl
@[simp] theorem State.storeReg_act (s : State) (r : Reg) (v : Word) : (s.storeReg r v).act = s.act := by cases r <;> rfl
@[simp] theorem State.storeReg_mbox (s : State) (r : Reg) (v : Word) : (s.storeReg r v).mbox = s.mbox := by cases r <;> rfl
@[simp] theorem State.storeReg_chans (s : State) (r : Reg) (v : Word) : (s.storeReg r v).chans = s.chans := by cases r <;> rfl
@[simp] theorem State.storeReg_err (s : State) (r : Reg) (v : Word) : (s.storeReg r v).err = s.err := by cases r <;> rfl
@[simp] theorem State.storeReg_ports (s : State) (r : Reg) (v : Word) : (s.storeReg r v).ports = s.ports := by cases r <;> rfl
@[simp] theorem State.storeReg_turn (s : State) (r : Reg) (v : Word) : (s.storeReg r v).turn = s.turn := by cases r <;> rfl
@[simp] theorem State.storeReg_sched (s : State) (r : Reg) (v : Word) : (s.storeReg r v).sched = s.sched := by cases r <;> rfl
@[simp] theorem State.storeReg_freeCtr (s : State) (r : Reg) (v : Word) : (s.storeReg r v).freeCtr = s.freeCtr := by cases r <;> rfl

@[simp] theorem State.setPchg_pchg (s : State) : s.setPchg.pchg = true := rfl
@[simp] theorem State.clearPchg_pchg (s : State) : s.clearPchg.pchg = false := rfl
@[simp] theorem State.postCoeffs_mbox (s : State) : s.postCoeffs.mbox = s.newc := rfl

/-! ## The current port -/

@[simp] theorem State.setPort_cur (s : State) (p : Port) (v : PortState) : (s.setPort p v).cur = s.cur := rfl
@[simp] theorem State.setStream_cur (s : State) (ws : List Word) : (s.setStream ws).cur = s.cur := rfl
@[simp] theorem State.setBusy_cur (s : State) (m : Micro) : (s.setBusy m).cur = s.cur := rfl
@[simp] theorem State.finish_cur (s : State) (r : Response) : (s.finish r).cur = s.cur := rfl
@[simp] theorem State.setChan_cur (s : State) (ch : Nat) (c : Channel) : (s.setChan ch c).cur = s.cur := rfl
@[simp] theorem State.modChan_cur (s : State) (ch : Nat) (f : Channel → Channel) : (s.modChan ch f).cur = s.cur := rfl
@[simp] theorem State.setPchg_cur (s : State) : (s.setPchg).cur = s.cur := rfl
@[simp] theorem State.clearPchg_cur (s : State) : (s.clearPchg).cur = s.cur := rfl
@[simp] theorem State.postCoeffs_cur (s : State) : (s.postCoeffs).cur = s.cur := rfl
@[simp] theorem State.latchErr_cur (s : State) (c : Cause) (w : Word) : (s.latchErr c w).cur = s.cur := by simp [State.cur]
@[simp] theorem State.raise_cur (s : State) (c : Cause) (w : Word) : (s.raise c w).cur = s.cur := by simp [State.cur]
@[simp] theorem State.takeCoeffs_cur (s : State) : (s.takeCoeffs).cur = s.cur := by simp [State.cur]
@[simp] theorem State.latchSettings_cur (s : State) : (s.latchSettings).cur = s.cur := by simp [State.cur]
@[simp] theorem State.computeCoeffs_cur (s : State) (c : ChainSettings Word) (fs : Word) : (s.computeCoeffs c fs).cur = s.cur := by simp [State.cur]
@[simp] theorem State.tickDesign_cur (s : State) (fs : Word) : (s.tickDesign fs).cur = s.cur := by simp [State.cur]
@[simp] theorem State.storeReg_cur (s : State) (r : Reg) (v : Word) : (s.storeReg r v).cur = s.cur := by simp [State.cur]

/-! ## What the port updates leave in the ports -/

@[simp] theorem State.port_setPort_same (s : State) (p : Port) (v : PortState) : (s.setPort p v).port p = v := by
  simp [State.port, State.setPort]

theorem State.port_setPort_ne (s : State) (p r : Port) (v : PortState) (h : r ≠ p) :
    (s.setPort p v).port r = s.port r := by
  simp [State.port, State.setPort, Ports.get_set_ne _ _ _ _ h]

@[simp] theorem State.port_modChan (s : State) (ch : Nat) (f : Channel → Channel) (p : Port) :
    (s.modChan ch f).port p = s.port p := rfl

theorem State.finish_ports (s : State) (r : Response) :
    (s.finish r).ports = s.ports.set s.cur
      { stream := (s.port s.cur).stream, pc := (s.port s.cur).pc + 1, busy := none
        out := r :: (s.port s.cur).out } := rfl

theorem State.setBusy_ports (s : State) (m : Micro) :
    (s.setBusy m).ports = s.ports.set s.cur
      { stream := (s.port s.cur).stream, pc := (s.port s.cur).pc, busy := some m, out := (s.port s.cur).out } := rfl

theorem State.setStream_ports (s : State) (ws : List Word) :
    (s.setStream ws).ports = s.ports.set s.cur
      { stream := ws, pc := (s.port s.cur).pc, busy := (s.port s.cur).busy, out := (s.port s.cur).out } := rfl

theorem State.finish_port_cur (s : State) (r : Response) :
    (s.finish r).port s.cur =
      { stream := (s.port s.cur).stream, pc := (s.port s.cur).pc + 1, busy := none
        out := r :: (s.port s.cur).out } := by
  simp [State.finish]

theorem State.finish_port_ne (s : State) (r : Response) (p : Port) (h : p ≠ s.cur) :
    (s.finish r).port p = s.port p := State.port_setPort_ne _ _ _ _ h

/-! ## Channels -/

@[simp] theorem State.setChan_nch (s : State) (ch : Nat) (c : Channel) : (s.setChan ch c).nch = s.nch := by
  simp [State.nch, State.setChan]

@[simp] theorem State.modChan_nch (s : State) (ch : Nat) (f : Channel → Channel) : (s.modChan ch f).nch = s.nch := by
  simp [State.modChan]

@[simp] theorem State.finish_nch (s : State) (r : Response) : (s.finish r).nch = s.nch := rfl

@[simp] theorem State.setBusy_nch (s : State) (m : Micro) : (s.setBusy m).nch = s.nch := rfl

theorem State.setChan_chans (s : State) (ch : Nat) (c : Channel) : (s.setChan ch c).chans = s.chans.set ch c := rfl

theorem State.modChan_chans (s : State) (ch : Nat) (f : Channel → Channel) :
    (s.modChan ch f).chans = s.chans.set ch (f (s.chan ch)) := rfl

/-- Reading the channel just written. -/
theorem State.chan_setChan_same (s : State) (ch : Nat) (c : Channel) (h : ch < s.nch) : (s.setChan ch c).chan ch = c := by
  simp only [State.nch] at h
  simp [State.chan, State.setChan, h]

/-- Reading another channel. -/
theorem State.chan_setChan_ne (s : State) (ch d : Nat) (c : Channel) (h : d ≠ ch) :
    (s.setChan ch c).chan d = s.chan d := by
  simp [State.chan, State.setChan, List.getD_eq_getElem?_getD, Ne.symm h]

theorem State.chan_modChan_same (s : State) (ch : Nat) (f : Channel → Channel) (h : ch < s.nch) :
    (s.modChan ch f).chan ch = f (s.chan ch) := State.chan_setChan_same _ _ _ h

/-- Two updates of one channel are one. -/
theorem State.modChan_modChan (s : State) (ch : Nat) (f g : Channel → Channel) (h : ch < s.nch) :
    (s.modChan ch f).modChan ch g = s.modChan ch fun c => g (f c) := by
  unfold State.modChan
  rw [State.chan_setChan_same _ _ _ h]
  simp [State.setChan]

theorem State.chan_modChan_ne (s : State) (ch d : Nat) (f : Channel → Channel) (h : d ≠ ch) :
    (s.modChan ch f).chan d = s.chan d := State.chan_setChan_ne _ _ _ _ h

@[simp] theorem State.chan_finish (s : State) (r : Response) (ch : Nat) : (s.finish r).chan ch = s.chan ch := rfl

@[simp] theorem State.chan_setBusy (s : State) (m : Micro) (ch : Nat) : (s.setBusy m).chan ch = s.chan ch := rfl

@[simp] theorem State.chan_setStream (s : State) (ws : List Word) (ch : Nat) : (s.setStream ws).chan ch = s.chan ch := rfl

@[simp] theorem State.chan_raise (s : State) (c : Cause) (w : Word) (ch : Nat) : (s.raise c w).chan ch = s.chan ch := by
  simp [State.chan]

/-- A channel the block has is a member of its channels. -/
theorem State.chan_mem (s : State) (ch : Nat) (h : ch < s.nch) : s.chan ch ∈ s.chans := by
  simp only [State.nch] at h
  simp [State.chan, List.getD_eq_getElem?_getD, h]

theorem State.channelSel_eq_some (s : State) (ch : BitVec 4) (c : Nat) :
    s.channelSel ch = some c ↔ c = ch.toNat ∧ c < s.nch := by
  unfold State.channelSel
  split
  · rename_i h
    constructor
    · intro e
      cases e
      exact ⟨rfl, h⟩
    · rintro ⟨rfl, -⟩
      rfl
  · rename_i h
    constructor
    · intro e
      cases e
    · rintro ⟨rfl, h'⟩
      exact absurd h' h

theorem State.fifoSel_eq_some (s : State) (ch : BitVec 4) (k : BitVec 2) (c : Nat) (kind : FifoKind) :
    s.fifoSel ch k = some (c, kind) ↔ fifoKind k = some kind ∧ s.channelSel ch = some c := by
  unfold State.fifoSel
  cases fifoKind k <;> cases s.channelSel ch <;> simp [and_comm]

end Sys2Proof.Machine
end

