-- ==== Sys2Proof/Laws/Ops.lean ====
section
/-!
SUPPORT. What the shared operations can do: the checks of a command, the refusal fault, and the ring buffer.
-/

namespace Sys2Proof.Machine

/-! ## Checks (R273) -/

/-- No check fires exactly when none of the conditions holds. -/
theorem firstFault_eq_none (cs : List (Bool × Cause)) : firstFault cs = none ↔ ∀ p ∈ cs, p.1 = false := by
  induction cs with
  | nil => simp [firstFault]
  | cons p rest ih =>
    obtain ⟨b, c⟩ := p
    cases b <;> simp [firstFault, ih]

/-- A guarded command either raises the first check that fires or runs its body. -/
theorem guarded_cases (s : State) (w : Word) (cs : List (Bool × Cause)) (body : Result) :
    (∃ c, firstFault cs = some c ∧ guarded s w cs body = .next (s.raise c w)) ∨
      (firstFault cs = none ∧ guarded s w cs body = body) := by
  unfold guarded
  cases h : firstFault cs with
  | none => exact .inr ⟨rfl, rfl⟩
  | some c => exact .inl ⟨c, rfl, rfl⟩

/-- A command whose checks all pass runs its body. -/
theorem guarded_pass (s : State) (w : Word) (cs : List (Bool × Cause)) (body : Result)
    (h : ∀ p ∈ cs, p.1 = false) : guarded s w cs body = body := by
  simp [guarded, (firstFault_eq_none cs).2 h]

/-! ## The refusal fault (R272, R275) -/

theorem State.latchErr_of_valid (s : State) (c : Cause) (w : Word) (h : s.err.valid = true) : s.latchErr c w = s := by
  simp [State.latchErr, h]

theorem State.latchErr_of_clear (s : State) (c : Cause) (w : Word) (h : s.err.valid = false) :
    s.latchErr c w = { s with err := { valid := true, cause := c.code, port := s.cur.code, word := w } } := by
  simp [State.latchErr, h]

theorem State.raise_err_of_valid (s : State) (c : Cause) (w : Word) (h : s.err.valid = true) :
    (s.raise c w).err = s.err := by
  simp [State.raise, State.latchErr_of_valid _ _ _ h]

theorem State.raise_err_of_clear (s : State) (c : Cause) (w : Word) (h : s.err.valid = false) :
    (s.raise c w).err = { valid := true, cause := c.code, port := s.cur.code, word := w } := by
  simp [State.raise, State.latchErr_of_clear _ _ _ h]

theorem State.raise_ports (s : State) (c : Cause) (w : Word) :
    (s.raise c w).ports = (s.finish (respond .fault c.code.toNat)).ports := by
  simp [State.raise, State.finish_ports, State.port, State.cur]

/-! ## The ring buffer -/

namespace Fifo

variable {α : Type}

theorem ok_prepared {cmax : Nat} {q : Fifo α} (h : q.prepared = true) :
    q.Ok cmax ↔ 0 < q.cap ∧ q.cap ≤ cmax ∧ q.slots.length = q.cap ∧ q.rd ≤ q.wr ∧ q.wr ≤ q.rd + q.cap ∧
      q.ovf < 2 ^ 28 := by
  simp [Fifo.Ok, h]

theorem sat28_lt (n : Nat) : sat28 n < 2 ^ 28 := by
  unfold sat28
  omega

theorem unprepared_ok (cmax : Nat) : (Fifo.unprepared α).Ok cmax := by
  simp [Fifo.Ok, Fifo.unprepared]

theorem prepare_ok (cmax cap shape : Nat) (zero : α) (h0 : 0 < cap) (h1 : cap ≤ cmax) :
    (Fifo.prepare cap shape zero).Ok cmax := by
  simp [Fifo.Ok, Fifo.prepare, h0, h1]

theorem countDrop_ok {cmax : Nat} {q : Fifo α} (hp : q.prepared = true) (h : q.Ok cmax) : q.countDrop.Ok cmax := by
  rw [ok_prepared hp] at h
  rw [ok_prepared (q := q.countDrop) hp]
  exact ⟨h.1, h.2.1, h.2.2.1, h.2.2.2.1, h.2.2.2.2.1, sat28_lt _⟩

theorem copyIn_ok {cmax : Nat} {q : Fifo α} (hp : q.prepared = true) (h : q.Ok cmax) (x : α) :
    (q.copyIn x).Ok cmax := by
  rw [ok_prepared hp] at h
  rw [ok_prepared (q := q.copyIn x) hp]
  simpa [copyIn] using h

theorem publish_ok {cmax : Nat} {q : Fifo α} (hp : q.prepared = true) (hf : q.full = false) (h : q.Ok cmax) :
    q.publish.Ok cmax := by
  rw [ok_prepared hp] at h
  rw [ok_prepared (q := q.publish) hp]
  have hf' : ¬ q.cap ≤ q.wr - q.rd := of_decide_eq_false hf
  simp only [publish]
  omega

theorem free_ok {cmax : Nat} {q : Fifo α} (hp : q.prepared = true) (hr : 0 < q.readable) (h : q.Ok cmax) :
    q.free.Ok cmax := by
  rw [ok_prepared hp] at h
  rw [ok_prepared (q := q.free) hp]
  simp only [readable] at hr
  simp only [free]
  omega

theorem push_ok {cmax : Nat} {q : Fifo α} (hp : q.prepared = true) (h : q.Ok cmax) (x : α) : (q.push x).Ok cmax := by
  unfold push
  cases hf : q.full with
  | true => exact countDrop_ok hp h
  | false => exact publish_ok (q := q.copyIn x) hp hf (copyIn_ok hp h x)

/-! ### Cursors and the queue -/

theorem full_eq_true (q : Fifo α) : q.full = true ↔ q.cap ≤ q.wr - q.rd := decide_eq_true_iff

theorem full_eq_false (q : Fifo α) : q.full = false ↔ q.wr - q.rd < q.cap := by
  rw [← Bool.not_eq_true, full_eq_true]
  omega

@[simp] theorem countDrop_readable (q : Fifo α) : q.countDrop.readable = q.readable := rfl
@[simp] theorem copyIn_readable (q : Fifo α) (x : α) : (q.copyIn x).readable = q.readable := rfl

theorem publish_readable {q : Fifo α} (h : q.rd ≤ q.wr) : q.publish.readable = q.readable + 1 := by
  simp only [readable, publish]
  omega

theorem free_readable (q : Fifo α) : q.free.readable = q.readable - 1 := by
  simp only [readable, free]
  omega

@[simp] theorem queued_length (d : α) (q : Fifo α) : (q.queued d).length = q.readable := by
  simp [queued]

/-- Two sequence numbers less than `C` apart have different slots. -/
theorem slot_ne {c a i j : Nat} (hi : i < c) (hj : j < c) (h : i ≠ j) : (a + i) % c ≠ (a + j) % c := by
  intro e
  have h1 : (a + i) ≡ (a + j) [MOD c] := e
  have h2 : i ≡ j [MOD c] := Nat.ModEq.add_left_cancel' a h1
  rw [Nat.ModEq, Nat.mod_eq_of_lt hi, Nat.mod_eq_of_lt hj] at h2
  exact h h2

/-- A push into a FIFO with room appends its element to the queue (R129). -/
theorem queued_push {cmax : Nat} {q : Fifo α} (d x : α) (hp : q.prepared = true) (hf : q.full = false)
    (h : q.Ok cmax) : (q.push x).queued d = q.queued d ++ [x] := by
  rw [ok_prepared hp] at h
  obtain ⟨h0, -, hl, hrw, -, -⟩ := h
  have hf' : q.readable < q.cap := Nat.lt_of_not_le (of_decide_eq_false hf)
  have hw : q.wr = q.rd + q.readable := by
    simp only [readable]
    omega
  have hr : (q.push x).readable = q.readable + 1 := by
    simp only [push, hf, Bool.false_eq_true, if_false]
    exact publish_readable (q := q.copyIn x) hrw
  unfold queued
  rw [hr, List.range_succ, List.map_append]
  have hs : (q.push x).slots = q.slots.set (q.wr % q.cap) x := by simp [push, hf, publish, copyIn]
  have hc : (q.push x).cap = q.cap := by simp [push, hf, publish, copyIn]
  have hd : (q.push x).rd = q.rd := by simp [push, hf, publish, copyIn]
  rw [hs, hc, hd, hw]
  congr 1
  · apply List.map_congr_left
    intro i hi
    have hi' : i < q.readable := List.mem_range.1 hi
    have hne : (q.rd + q.readable) % q.cap ≠ (q.rd + i) % q.cap := slot_ne hf' (by omega) (by omega)
    simp [List.getD_eq_getElem?_getD, hne]
  · have hm : (q.rd + q.readable) % q.cap < q.slots.length := by
      rw [hl]
      exact Nat.mod_lt _ h0
    simp [List.getD_eq_getElem?_getD, hm]

/-- A pull takes the head of the queue (R126, R129). -/
theorem queued_free (d : α) (q : Fifo α) (h : 0 < q.readable) : q.queued d = q.front d :: q.free.queued d := by
  have hr : q.readable = (q.readable - 1) + 1 := by omega
  have h2 : q.free.readable = q.readable - 1 := free_readable q
  unfold queued
  rw [h2]
  conv => lhs; rw [hr]
  rw [List.range_succ_eq_map, List.map_cons, List.map_map]
  congr 1
  apply List.map_congr_left
  intro i _
  simp only [Function.comp, free]
  congr 2
  omega

end Fifo

/-! ## The FIFOs of a channel -/

namespace Channel

theorem fifo_prepared (c : Channel) (k : FifoKind) :
    (c.fifo k).prepared = (match k with | .sf => c.sf.prepared | .mf => c.mf.prepared | .cf => c.cf.prepared) := by
  cases k <;> rfl

/-- Each operation on one FIFO keeps every FIFO of the channel well formed. -/
theorem countDrop_fifosOk {cmax : Nat} {c : Channel} (k : FifoKind) (hp : (c.fifo k).prepared = true)
    (h : c.FifosOk cmax) : (c.countDrop k).FifosOk cmax := by
  obtain ⟨h1, h2, h3⟩ := h
  cases k with
  | sf => exact ⟨Fifo.countDrop_ok (q := c.sf) hp h1, h2, h3⟩
  | mf => exact ⟨h1, Fifo.countDrop_ok (q := c.mf) hp h2, h3⟩
  | cf => exact ⟨h1, h2, Fifo.countDrop_ok (q := c.cf) hp h3⟩

theorem copyIn_fifosOk {cmax : Nat} {c : Channel} (x : Item) (hp : (c.fifo x.kind).prepared = true)
    (h : c.FifosOk cmax) : (c.copyIn x).FifosOk cmax := by
  obtain ⟨h1, h2, h3⟩ := h
  cases x with
  | samples xs => exact ⟨Fifo.copyIn_ok (q := c.sf) hp h1 xs, h2, h3⟩
  | spectrum xs => exact ⟨h1, Fifo.copyIn_ok (q := c.mf) hp h2 xs, h3⟩
  | curve ps => exact ⟨h1, h2, Fifo.copyIn_ok (q := c.cf) hp h3 ps⟩

theorem publish_fifosOk {cmax : Nat} {c : Channel} (k : FifoKind) (hp : (c.fifo k).prepared = true)
    (hf : (c.fifo k).full = false) (h : c.FifosOk cmax) : (c.publish k).FifosOk cmax := by
  obtain ⟨h1, h2, h3⟩ := h
  cases k with
  | sf => exact ⟨Fifo.publish_ok (q := c.sf) hp hf h1, h2, h3⟩
  | mf => exact ⟨h1, Fifo.publish_ok (q := c.mf) hp hf h2, h3⟩
  | cf => exact ⟨h1, h2, Fifo.publish_ok (q := c.cf) hp hf h3⟩

theorem free_fifosOk {cmax : Nat} {c : Channel} (k : FifoKind) (hp : (c.fifo k).prepared = true)
    (hr : 0 < (c.fifo k).readable) (h : c.FifosOk cmax) : (c.free k).FifosOk cmax := by
  obtain ⟨h1, h2, h3⟩ := h
  cases k with
  | sf => exact ⟨Fifo.free_ok (q := c.sf) hp hr h1, h2, h3⟩
  | mf => exact ⟨h1, Fifo.free_ok (q := c.mf) hp hr h2, h3⟩
  | cf => exact ⟨h1, h2, Fifo.free_ok (q := c.cf) hp hr h3⟩

theorem copyIn_fifo (c : Channel) (x : Item) (k : FifoKind) : (c.copyIn x).fifo k = c.fifo k := by
  cases x <;> cases k <;> rfl

theorem push_fifosOk {cmax : Nat} {c : Channel} (x : Item) (hp : (c.fifo x.kind).prepared = true)
    (h : c.FifosOk cmax) : (c.push x).FifosOk cmax := by
  unfold push
  cases hf : (c.fifo x.kind).full with
  | true => exact countDrop_fifosOk _ hp h
  | false =>
    have e := copyIn_fifo c x x.kind
    exact publish_fifosOk _ (by rw [e]; exact hp) (by rw [e]; exact hf) (copyIn_fifosOk x hp h)

end Channel

end Sys2Proof.Machine
end

