-- ==== Sys2Proof/Laws/Exec.lean ====
section
/-!
SUPPORT. What every meaning does, said once: a command is refused with the cause of `causeOf`, or has its effect.
-/

namespace Sys2Proof.Machine

/-- The effect of a command none of whose checks fires. -/
def effect (i : Instr) (s : State) : Result :=
  match i with
  | .fprep ch k cap =>
    match fifoKind k with
    | none => .next s
    | some kind =>
      if kind == .sf && s.pushInFlight ch.toNat then .refused .prepDuringPush
      else
        .next
          ((s.modChan ch.toNat fun x => x.prepare s.cfg.num cap.toNat (s.latchedShape ch.toNat kind) kind).finish
            (respond .ok 0))
  | .fpush ch k item =>
    match fifoKind k with
    | none => .next s
    | some kind =>
      match itemOfPayload kind ((s.chan ch.toNat).fifo kind).shape item with
      | none => .next s
      | some x => .next (s.beginPush ch.toNat x)
  | .fpull ch k =>
    match fifoKind k with
    | none => .next s
    | some kind => .next (s.beginPull ch.toNat kind)
  | .favail ch k =>
    match fifoKind k with
    | none => .next s
    | some kind => .next (s.finish (respond .ok ((s.chan ch.toNat).fifo kind).readable))
  | .fovf ch k =>
    match fifoKind k with
    | none => .next s
    | some kind => .next (s.finish (respond .ok ((s.chan ch.toNat).fifo kind).ovf))
  | .chord ch ord =>
    match orderOf ord with
    | none => .next s
    | some o => .next ((s.modChan ch.toNat fun x => x.changeOrder s.cfg.num o).finish (respond .ok 0))
  | .rfeed ch => .next (s.beginFeed ch.toNat)
  | .spec ch floorDb =>
    .next ((s.modChan ch.toNat fun y => y.analyse s.cfg floorDb).finish
      (respond (pushStatus (s.chan ch.toNat) .mf) 0))
  | .cgen ch _ bt bw bh binWidthHz floorDb =>
    if (s.chan ch.toNat).mf.readable = 0 then .next (s.finish (respond .empty 0))
    else
      .next
        ((s.modChan ch.toNat fun y => y.genCurve s.cfg.num s.stride.toNat bt bw bh binWidthHz floorDb).finish
          (respond (pushStatus (s.chan ch.toNat) .cf)
            ((s.chan ch.toNat).headCurve s.cfg.num s.stride.toNat bt bw bh binWidthHz floorDb).length))
  | .cget ch =>
    .next ((s.modChan ch.toNat fun y => y.drainCurves (s.chan ch.toNat).cf.readable).finish
      (respond .ok (s.chan ch.toNat).cf.readable))
  | .rdcrv ch =>
    .next (s.finish (respondWith (s.chan ch.toNat).curve.length (wordsOfPoints (s.chan ch.toNat).curve)))
  | .ccoef fs => .next ((s.tickDesign fs).finish (respond .ok 0))
  | .apply => .next (s.postCoeffs.finish (respond .ok 0))
  | .proc n samples =>
    if s.turn.split then .next (s.takeCoeffs.setBusy (.procRun n.toNat samples))
    else .next (s.takeCoeffs.runProc n.toNat samples)
  | .rdcoef =>
    match s.newc with
    | none => .next s
    | some c => .next (s.finish (respondWith 46 c.words))
  | .wrr r v =>
    match regOf s.nch r with
    | none => .next s
    | some reg => .next ((s.writeReg reg v).finish (respond .ok 0))
  | .rdr r =>
    match regOf s.nch r with
    | none => .next s
    | some reg =>
      match s.readReg reg with
      | none => .next s
      | some v => .next (s.finish (respondWith 1 [v]))
  | .snap => .next (s.latchSettings.finish (respond .ok 0))
  | .tclr => .next (s.clearPchg.finish (respond .ok (if s.pchg then 1 else 0)))
  | .tick fs =>
    if !s.pchg then .next (s.finish (respond .ok 0))
    else if s.turn.split then .next (s.clearPchg.setBusy (.tickLatch fs))
    else .next ((s.clearPchg.latchSettings.tickDesign fs).tickPost)
  | .poll ch fs bx bt bw bh =>
    let a : PollArgs :=
      { ch := ch.toNat, bx := bx, bt := bt, bw := bw, bh := bh
        binWidthHz :=
          Numeric.div s.cfg.num fs (Numeric.ofRat s.cfg.num ((s.chan ch.toNat).size : Rat))
        floorDb := s.floorDb }
    if s.turn.split then .next (s.setBusy (.pollFeed a (s.chan ch.toNat).sf.readable))
    else .next (s.pollRun a (s.chan ch.toNat).sf.readable)

/-- A refusal with a cause, or a body. -/
def resolve (s : State) (w : Word) (o : Option Cause) (body : Result) : Result :=
  match o with
  | some c => .next (s.raise c w)
  | none => body

@[simp] theorem resolve_some (s : State) (w : Word) (c : Cause) (body : Result) :
    resolve s w (some c) body = .next (s.raise c w) := rfl

@[simp] theorem resolve_none (s : State) (w : Word) (body : Result) : resolve s w none body = body := rfl

theorem guarded_eq_resolve (s : State) (w : Word) (cs : List (Bool × Cause)) (body : Result) :
    guarded s w cs body = resolve s w (firstFault cs) body := rfl

/-- What a command answers from the cause its checks give. -/
def outcomeOf (i : Instr) (s : State) (o : Option Cause) : Result := resolve s i.word o (effect i s)

theorem channelSel_of_lt (s : State) (ch : BitVec 4) (h : ch.toNat < s.nch) : s.channelSel ch = some ch.toNat := by
  simp [State.channelSel, h]

theorem channelSel_of_not_lt (s : State) (ch : BitVec 4) (h : ¬ ch.toNat < s.nch) : s.channelSel ch = none := by
  simp [State.channelSel, h]

/-- A port is B or its inequality with B is decided. -/
theorem port_cases (p : Port) : p = .A ∨ p = .B ∨ p = .H := by cases p <;> simp

theorem kind_cases (k : BitVec 2) : k = 0 ∨ k = 1 ∨ k = 2 ∨ k = 3 := by revert k; decide

theorem fprep_eq (ch : BitVec 4) (k : BitVec 2) (cap : BitVec 18) (s : State) :
    exec (.fprep ch k cap) s = outcomeOf (.fprep ch k cap) s (causeOf (.fprep ch k cap) s) := by
  by_cases hc : ch.toNat < s.nch
  · have hs := channelSel_of_lt s ch hc
    rcases kind_cases k with rfl | rfl | rfl | rfl <;> rcases port_cases s.cur with hp | hp | hp <;>
      by_cases hz : cap = 0#18 <;>
      simp [exec, execFprep, causeOf, selectorsOk, State.fifoSel, hs, legalOn, preparedOk, writtenOk, operandsOk,
        outcomeOf, effect, fifoKind, guarded_eq_resolve, firstFault, hp, hz]
  · have hs := channelSel_of_not_lt s ch hc
    rcases kind_cases k with rfl | rfl | rfl | rfl <;>
      simp [exec, execFprep, causeOf, selectorsOk, State.fifoSel, hs, fifoKind, outcomeOf]

theorem fpush_eq (ch : BitVec 4) (k : BitVec 2) (item : List Word) (s : State) :
    exec (.fpush ch k item) s = outcomeOf (.fpush ch k item) s (causeOf (.fpush ch k item) s) := by
  by_cases hc : ch.toNat < s.nch
  · have hs := channelSel_of_lt s ch hc
    rcases kind_cases k with rfl | rfl | rfl | rfl <;> rcases port_cases s.cur with hp | hp | hp <;>
      simp [exec, execFpush, causeOf, selectorsOk, State.fifoSel, State.fifoAt, hs, legalOn, preparedOk, writtenOk,
        operandsOk, outcomeOf, effect, fifoKind, guarded_eq_resolve, firstFault, FifoKind.producer, hp]
    all_goals
      generalize itemOfPayload _ _ item = x
      split <;> cases x <;> simp_all
  · have hs := channelSel_of_not_lt s ch hc
    rcases kind_cases k with rfl | rfl | rfl | rfl <;>
      simp [exec, execFpush, causeOf, selectorsOk, State.fifoSel, hs, fifoKind, outcomeOf]

theorem fpull_eq (ch : BitVec 4) (k : BitVec 2) (s : State) :
    exec (.fpull ch k) s = outcomeOf (.fpull ch k) s (causeOf (.fpull ch k) s) := by
  by_cases hc : ch.toNat < s.nch
  · have hs := channelSel_of_lt s ch hc
    rcases kind_cases k with rfl | rfl | rfl | rfl <;> rcases port_cases s.cur with hp | hp | hp <;>
      simp [exec, execFpull, causeOf, selectorsOk, State.fifoSel, State.fifoAt, hs, legalOn, preparedOk, writtenOk,
        operandsOk, outcomeOf, effect, fifoKind, guarded_eq_resolve, firstFault, FifoKind.consumer, hp]
  · have hs := channelSel_of_not_lt s ch hc
    rcases kind_cases k with rfl | rfl | rfl | rfl <;>
      simp [exec, execFpull, causeOf, selectorsOk, State.fifoSel, hs, fifoKind, outcomeOf]

theorem favail_eq (ch : BitVec 4) (k : BitVec 2) (s : State) :
    exec (.favail ch k) s = outcomeOf (.favail ch k) s (causeOf (.favail ch k) s) := by
  by_cases hc : ch.toNat < s.nch
  · have hs := channelSel_of_lt s ch hc
    rcases kind_cases k with rfl | rfl | rfl | rfl <;> rcases port_cases s.cur with hp | hp | hp <;>
      simp [exec, execFavail, causeOf, selectorsOk, State.fifoSel, State.fifoAt, hs, legalOn, preparedOk, writtenOk,
        operandsOk, outcomeOf, effect, fifoKind, guarded_eq_resolve, firstFault, FifoKind.consumer, FifoKind.producer, hp]
  · have hs := channelSel_of_not_lt s ch hc
    rcases kind_cases k with rfl | rfl | rfl | rfl <;>
      simp [exec, execFavail, causeOf, selectorsOk, State.fifoSel, hs, fifoKind, outcomeOf]

theorem fovf_eq (ch : BitVec 4) (k : BitVec 2) (s : State) :
    exec (.fovf ch k) s = outcomeOf (.fovf ch k) s (causeOf (.fovf ch k) s) := by
  by_cases hc : ch.toNat < s.nch
  · have hs := channelSel_of_lt s ch hc
    rcases kind_cases k with rfl | rfl | rfl | rfl <;>
      simp [exec, execFovf, causeOf, selectorsOk, State.fifoSel, hs, legalOn, preparedOk, writtenOk, operandsOk,
        outcomeOf, effect, fifoKind]
  · have hs := channelSel_of_not_lt s ch hc
    rcases kind_cases k with rfl | rfl | rfl | rfl <;>
      simp [exec, execFovf, causeOf, selectorsOk, State.fifoSel, hs, fifoKind, outcomeOf]

theorem chord_eq (ch : BitVec 4) (ord : BitVec 18) (s : State) :
    exec (.chord ch ord) s = outcomeOf (.chord ch ord) s (causeOf (.chord ch ord) s) := by
  by_cases hc : ch.toNat < s.nch
  · have hs := channelSel_of_lt s ch hc
    have ho : (ord == 11 || ord == 12 || ord == 13) = (orderOf ord).isSome := by
      unfold orderOf
      split_ifs <;> simp_all
    rcases port_cases s.cur with hp | hp | hp <;>
      simp only [exec, execChord, causeOf, selectorsOk, hs, legalOn, preparedOk, writtenOk, operandsOk, outcomeOf,
        effect, guarded_eq_resolve, firstFault, hp, ho] <;>
      cases orderOf ord <;> simp
  · have hs := channelSel_of_not_lt s ch hc
    simp [exec, execChord, causeOf, selectorsOk, hs, outcomeOf]

theorem rfeed_eq (ch : BitVec 4) (s : State) :
    exec (.rfeed ch) s = outcomeOf (.rfeed ch) s (causeOf (.rfeed ch) s) := by
  by_cases hc : ch.toNat < s.nch
  · have hs := channelSel_of_lt s ch hc
    rcases port_cases s.cur with hp | hp | hp <;>
      cases hx : (s.chan ch.toNat).sf.prepared <;> cases hy : (s.chan ch.toNat).ord <;>
      simp [exec, execRfeed, causeOf, selectorsOk, hs, legalOn, preparedOk, writtenOk, operandsOk, outcomeOf, effect,
        guarded_eq_resolve, firstFault, hp, hx, hy]
  · have hs := channelSel_of_not_lt s ch hc
    simp [exec, execRfeed, causeOf, selectorsOk, hs, outcomeOf]

theorem spec_eq (ch : BitVec 4) (floorDb : Word) (s : State) :
    exec (.spec ch floorDb) s = outcomeOf (.spec ch floorDb) s (causeOf (.spec ch floorDb) s) := by
  by_cases hc : ch.toNat < s.nch
  · have hs := channelSel_of_lt s ch hc
    rcases port_cases s.cur with hp | hp | hp <;>
      cases hx : (s.chan ch.toNat).mf.prepared <;> cases hy : (s.chan ch.toNat).ord <;>
      cases hz : Numeric.finite s.cfg.num floorDb <;>
      simp [exec, execSpec, causeOf, selectorsOk, hs, legalOn, preparedOk, writtenOk, operandsOk, outcomeOf, effect,
        guarded_eq_resolve, firstFault, hp, hx, hy, hz]
  · have hs := channelSel_of_not_lt s ch hc
    simp [exec, execSpec, causeOf, selectorsOk, hs, outcomeOf]

theorem cgen_eq (ch : BitVec 4) (bx bt bw bh binWidthHz floorDb : Word) (s : State) :
    exec (.cgen ch bx bt bw bh binWidthHz floorDb) s =
      outcomeOf (.cgen ch bx bt bw bh binWidthHz floorDb) s (causeOf (.cgen ch bx bt bw bh binWidthHz floorDb) s) := by
  by_cases hc : ch.toNat < s.nch
  · have hs := channelSel_of_lt s ch hc
    rcases port_cases s.cur with hp | hp | hp <;>
      cases hx : (s.chan ch.toNat).mf.prepared <;> cases hy : (s.chan ch.toNat).ord <;>
      cases hz : (s.chan ch.toNat).cf.prepared <;> cases hw : Numeric.finite s.cfg.num floorDb <;>
      simp [exec, execCgen, causeOf, selectorsOk, hs, legalOn, preparedOk, writtenOk, operandsOk, outcomeOf, effect,
        guarded_eq_resolve, firstFault, hp, hx, hy, hz, hw]
  · have hs := channelSel_of_not_lt s ch hc
    simp [exec, execCgen, causeOf, selectorsOk, hs, outcomeOf]

theorem cget_eq (ch : BitVec 4) (s : State) :
    exec (.cget ch) s = outcomeOf (.cget ch) s (causeOf (.cget ch) s) := by
  by_cases hc : ch.toNat < s.nch
  · have hs := channelSel_of_lt s ch hc
    rcases port_cases s.cur with hp | hp | hp <;>
      simp [exec, execCget, causeOf, selectorsOk, hs, legalOn, preparedOk, writtenOk, operandsOk, outcomeOf, effect,
        guarded_eq_resolve, firstFault, hp]
  · have hs := channelSel_of_not_lt s ch hc
    simp [exec, execCget, causeOf, selectorsOk, hs, outcomeOf]

theorem rdcrv_eq (ch : BitVec 4) (s : State) :
    exec (.rdcrv ch) s = outcomeOf (.rdcrv ch) s (causeOf (.rdcrv ch) s) := by
  by_cases hc : ch.toNat < s.nch
  · have hs := channelSel_of_lt s ch hc
    rcases port_cases s.cur with hp | hp | hp <;>
      simp [exec, execRdcrv, causeOf, selectorsOk, hs, legalOn, preparedOk, writtenOk, operandsOk, outcomeOf, effect,
        guarded_eq_resolve, firstFault, hp]
  · have hs := channelSel_of_not_lt s ch hc
    simp [exec, execRdcrv, causeOf, selectorsOk, hs, outcomeOf]

theorem ccoef_eq (fs : Word) (s : State) :
    exec (.ccoef fs) s = outcomeOf (.ccoef fs) s (causeOf (.ccoef fs) s) := by
  rcases port_cases s.cur with hp | hp | hp <;> cases hx : s.settings <;>
    simp [exec, execCcoef, causeOf, selectorsOk, legalOn, preparedOk, writtenOk, operandsOk, outcomeOf, effect, guarded_eq_resolve,
      firstFault, State.tickDesign, hp, hx]

theorem apply_eq (s : State) : exec .apply s = outcomeOf .apply s (causeOf .apply s) := by
  rcases port_cases s.cur with hp | hp | hp <;> cases hx : s.newc <;>
    simp [exec, execApply, causeOf, selectorsOk, legalOn, preparedOk, writtenOk, operandsOk, outcomeOf, effect, guarded_eq_resolve,
      firstFault, hp, hx]

theorem proc_eq (n : BitVec 18) (samples : List Word) (s : State) :
    exec (.proc n samples) s = outcomeOf (.proc n samples) s (causeOf (.proc n samples) s) := by
  rcases port_cases s.cur with hp | hp | hp <;>
    simp [exec, execProc, causeOf, selectorsOk, legalOn, preparedOk, writtenOk, operandsOk, outcomeOf, effect, guarded_eq_resolve,
      firstFault, hp]

theorem rdcoef_eq (s : State) : exec .rdcoef s = outcomeOf .rdcoef s (causeOf .rdcoef s) := by
  rcases port_cases s.cur with hp | hp | hp <;> cases hx : s.newc <;>
    simp [exec, execRdcoef, causeOf, selectorsOk, legalOn, preparedOk, writtenOk, operandsOk, outcomeOf, effect,
      guarded_eq_resolve, firstFault, hp, hx]

/-- The number of a register (R23 to R26). -/
def Reg.number : Reg → Nat
  | .peakFreq => 0x00
  | .peakGain => 0x01
  | .peakQ => 0x02
  | .loCutFreq => 0x03
  | .hiCutFreq => 0x04
  | .loCutSlope => 0x05
  | .hiCutSlope => 0x06
  | .bypass => 0x07
  | .anEn => 0x08
  | .floorDb => 0x10
  | .stride => 0x11
  | .blkLen => 0x12
  | .status => 0x20
  | .errCause => 0x21
  | .errWord => 0x22
  | .ordr ch => 0x30 + ch

theorem of_ite_eq {α : Type} {c : Prop} [Decidable c] {a b x : α} (h : (if c then a else b) = x) :
    (c ∧ a = x) ∨ (¬ c ∧ b = x) := by
  by_cases hc : c
  · exact .inl ⟨hc, by rwa [if_pos hc] at h⟩
  · exact .inr ⟨hc, by rwa [if_neg hc] at h⟩

/-- The number selects its register. -/
theorem regOf_number (nch : Nat) (r : BitVec 8) (reg : Reg) (h : regOf nch r = some reg) : r.toNat = reg.number := by
  unfold regOf at h
  iterate 15
    rcases of_ite_eq h with ⟨e, h⟩ | ⟨-, h⟩
    · rw [e]
      cases h
      rfl
  rcases of_ite_eq h with ⟨e, h⟩ | ⟨-, h⟩
  · cases h
    simp only [Reg.number]
    omega
  · cases h

/-- A number selects one register at most. -/
theorem regOf_injective (nch : Nat) (r r' : BitVec 8) (reg : Reg) (h : regOf nch r = some reg)
    (h' : regOf nch r' = some reg) : r = r' :=
  BitVec.eq_of_toNat_eq ((regOf_number _ _ _ h).trans (regOf_number _ _ _ h').symm)

/-- The parameter registers are the registers 0x00 to 0x08 (R24). -/
theorem Reg.group_iff (reg : Reg) : reg.group = .parameter ↔ reg.number ≤ 8 := by
  cases reg <;> simp [Reg.group, Reg.number]
  omega

/-- The group of a register from its number (R24 to R26). -/
theorem regOf_group (nch : Nat) (r : BitVec 8) (reg : Reg) (h : regOf nch r = some reg) :
    (reg.group = .parameter ∧ r.toNat ≤ 8) ∨ (reg.group ≠ .parameter ∧ ¬ r.toNat ≤ 8) := by
  have hn := regOf_number _ _ _ h
  rw [ne_eq, Reg.group_iff, ← hn]
  tauto

theorem wrr_eq (r : BitVec 8) (v : Word) (s : State) :
    exec (.wrr r v) s = outcomeOf (.wrr r v) s (causeOf (.wrr r v) s) := by
  cases hr : regOf s.nch r with
  | none => simp [exec, execWrr, causeOf, selectorsOk, hr, outcomeOf]
  | some reg =>
    rcases regOf_group _ _ _ hr with ⟨hg, hn⟩ | ⟨hg, hn⟩ <;> rcases port_cases s.cur with hp | hp | hp <;>
      cases hgr : reg.group <;> simp_all [exec, execWrr, causeOf, selectorsOk, legalOn, preparedOk, writtenOk,
        operandsOk, outcomeOf, effect, guarded_eq_resolve, firstFault, RegGroup.writer]
    have hn' : ¬ r.toNat ≤ 8 := by omega
    cases s.badRegValue reg v <;> simp [hn']

theorem rdr_eq (r : BitVec 8) (s : State) : exec (.rdr r) s = outcomeOf (.rdr r) s (causeOf (.rdr r) s) := by
  cases hr : regOf s.nch r with
  | none => simp [exec, execRdr, causeOf, selectorsOk, hr, outcomeOf]
  | some reg =>
    cases hv : s.readReg reg <;>
      simp [exec, execRdr, causeOf, selectorsOk, legalOn, preparedOk, writtenOk, operandsOk, outcomeOf, effect, hr, hv]

theorem snap_eq (s : State) : exec .snap s = outcomeOf .snap s (causeOf .snap s) := by
  rcases port_cases s.cur with hp | hp | hp <;> cases hx : s.params.snapshot <;>
    simp [exec, execSnap, causeOf, selectorsOk, legalOn, preparedOk, writtenOk, operandsOk, outcomeOf, effect, guarded_eq_resolve,
      firstFault, hp, hx]

theorem tclr_eq (s : State) : exec .tclr s = outcomeOf .tclr s (causeOf .tclr s) := by
  rcases port_cases s.cur with hp | hp | hp <;>
    simp [exec, execTclr, causeOf, selectorsOk, legalOn, preparedOk, writtenOk, operandsOk, outcomeOf, effect, guarded_eq_resolve,
      firstFault, hp]

theorem tick_eq (fs : Word) (s : State) : exec (.tick fs) s = outcomeOf (.tick fs) s (causeOf (.tick fs) s) := by
  rcases port_cases s.cur with hp | hp | hp <;> cases hx : s.params.snapshot <;> cases hf : s.pchg <;>
    simp [exec, execTick, causeOf, selectorsOk, legalOn, preparedOk, writtenOk, operandsOk, outcomeOf, effect, guarded_eq_resolve,
      firstFault, hp, hx, hf]

theorem poll_eq (ch : BitVec 4) (fs bx bt bw bh : Word) (s : State) :
    exec (.poll ch fs bx bt bw bh) s =
      outcomeOf (.poll ch fs bx bt bw bh) s (causeOf (.poll ch fs bx bt bw bh) s) := by
  by_cases hc : ch.toNat < s.nch
  · have hs := channelSel_of_lt s ch hc
    rcases port_cases s.cur with hp | hp | hp <;>
      cases hx : (s.chan ch.toNat).mf.prepared <;> cases hy : (s.chan ch.toNat).ord <;>
      cases hz : (s.chan ch.toNat).cf.prepared <;> cases hw : (s.chan ch.toNat).sf.prepared <;>
      simp [exec, execPoll, causeOf, selectorsOk, hs, legalOn, preparedOk, writtenOk, operandsOk, outcomeOf, effect,
        guarded_eq_resolve, firstFault, hp, hx, hy, hz, hw]
  · have hs := channelSel_of_not_lt s ch hc
    simp [exec, execPoll, causeOf, selectorsOk, hs, outcomeOf]

/-- Every command is refused with the cause its checks give, or has its effect. -/
theorem exec_eq (i : Instr) (s : State) : exec i s = outcomeOf i s (causeOf i s) := by
  cases i with
  | fprep ch k cap => exact fprep_eq ch k cap s
  | fpush ch k item => exact fpush_eq ch k item s
  | fpull ch k => exact fpull_eq ch k s
  | favail ch k => exact favail_eq ch k s
  | fovf ch k => exact fovf_eq ch k s
  | chord ch ord => exact chord_eq ch ord s
  | rfeed ch => exact rfeed_eq ch s
  | spec ch floorDb => exact spec_eq ch floorDb s
  | cgen ch bx bt bw bh binWidthHz floorDb => exact cgen_eq ch bx bt bw bh binWidthHz floorDb s
  | cget ch => exact cget_eq ch s
  | rdcrv ch => exact rdcrv_eq ch s
  | ccoef fs => exact ccoef_eq fs s
  | apply => exact apply_eq s
  | proc n samples => exact proc_eq n samples s
  | rdcoef => exact rdcoef_eq s
  | wrr r v => exact wrr_eq r v s
  | rdr r => exact rdr_eq r s
  | snap => exact snap_eq s
  | tclr => exact tclr_eq s
  | tick fs => exact tick_eq fs s
  | poll ch fs bx bt bw bh => exact poll_eq ch fs bx bt bw bh s

/-- A whole push is one update of its channel (R76). -/
theorem State.beginPush_whole (s : State) (c : Nat) (x : Item) (h : c < s.nch)
    (hs : ((s.chan c).fifo x.kind).full = true ∨ s.turn.split = false) :
    s.beginPush c x = (s.modChan c fun ch => ch.push x).finish (respond (pushStatus (s.chan c) x.kind) 0) := by
  unfold State.beginPush pushStatus
  cases hf : ((s.chan c).fifo x.kind).full with
  | true => simp [State.modChan, Channel.push, hf]
  | false =>
    rw [hf] at hs
    simp only [Bool.false_eq_true, false_or] at hs
    simp only [hs, Bool.false_eq_true, if_false, State.pushPublish, State.pushCopy, State.modChan_modChan _ _ _ _ h]
    simp [State.modChan, Channel.push, hf]

/-- No check of a command fires exactly when it passes every class of R273. -/
theorem causeOf_eq_none (i : Instr) (s : State) :
    causeOf i s = none ↔ selectorsOk i s = true ∧ legalOn i s.cur = true ∧ preparedOk i s = true ∧
      writtenOk i s = true ∧ operandsOk i s = true := by
  unfold causeOf
  cases selectorsOk i s <;> cases legalOn i s.cur <;> cases preparedOk i s <;> cases writtenOk i s <;>
    cases operandsOk i s <;> simp

/-- A next state of a command is a refusal or the effect of a command that passed its checks. -/
theorem exec_next (i : Instr) (s t : State) (h : exec i s = .next t) :
    (∃ c, causeOf i s = some c ∧ t = s.raise c i.word) ∨ (causeOf i s = none ∧ effect i s = .next t) := by
  rw [exec_eq] at h
  cases hc : causeOf i s with
  | some c =>
    rw [hc] at h
    simp only [outcomeOf, resolve_some, Host.Outcome.next.injEq] at h
    exact .inl ⟨c, rfl, h.symm⟩
  | none =>
    rw [hc] at h
    exact .inr ⟨rfl, h⟩

theorem fifoSel_none_of_kind (s : State) (ch : BitVec 4) (k : BitVec 2) (h : fifoKind k = none) :
    s.fifoSel ch k = none := by
  simp [State.fifoSel, h]

theorem orderOf_isSome (ord : BitVec 18) : (Sys2Proof.Machine.orderOf ord).isSome = (ord == 11 || ord == 12 || ord == 13) := by
  unfold Sys2Proof.Machine.orderOf
  split_ifs <;> simp_all

end Sys2Proof.Machine
end

