-- ==== Sys2Proof/Laws/PerInstr.lean ====
section
/-!
SUPPORT. Per-instruction laws. Family `PayloadFraming`: the payload a well-formed instruction carries has the length
R97 gives its command word.
-/

namespace Sys2Proof.Laws.PayloadFraming

/-- R97: the number of payload words is a function of the command word and of `NCH`. -/
def Statement (i : Instr) : Prop :=
  ∀ nch : Nat, i.WellFormed nch = true → i.payload.length = payloadCount nch i.word

/-- The opcode a word made of an opcode's code selects, where its unused fields are zero. -/
theorem selectOp_mkWord (o : Op) (ch : BitVec 4) (k : BitVec 2) (imm : BitVec 18)
    (h : o.format.unusedZero (mkWord o.code ch k imm) = true) : selectOp (mkWord o.code ch k imm) = some o := by
  simp [selectOp, h]

theorem fprep (ch : BitVec 4) (k : BitVec 2) (cap : BitVec 18) : Statement (.fprep ch k cap) := by
  intro nch _
  simp only [Instr.payload, Instr.word, payloadCount]
  rw [selectOp_mkWord .fprep _ _ _ (by simp [Op.format, Format.unusedZero])]
  rfl

theorem fpush (ch : BitVec 4) (k : BitVec 2) (item : List Word) : Statement (.fpush ch k item) := by
  intro nch h
  have h' : item.length < 2 ^ 18 := by simpa [Instr.WellFormed] using h
  simp only [Instr.payload, Instr.word, payloadCount]
  rw [selectOp_mkWord .fpush _ _ _ rfl]
  simp only [immField_mkWord, BitVec.toNat_ofNat]
  exact (Nat.mod_eq_of_lt h').symm

theorem fpull (ch : BitVec 4) (k : BitVec 2) : Statement (.fpull ch k) := by
  intro nch _
  simp only [Instr.payload, Instr.word, payloadCount]
  rw [selectOp_mkWord .fpull _ _ _ (by simp [Op.format, Format.unusedZero])]
  rfl

theorem favail (ch : BitVec 4) (k : BitVec 2) : Statement (.favail ch k) := by
  intro nch _
  simp only [Instr.payload, Instr.word, payloadCount]
  rw [selectOp_mkWord .favail _ _ _ (by simp [Op.format, Format.unusedZero])]
  rfl

theorem fovf (ch : BitVec 4) (k : BitVec 2) : Statement (.fovf ch k) := by
  intro nch _
  simp only [Instr.payload, Instr.word, payloadCount]
  rw [selectOp_mkWord .fovf _ _ _ (by simp [Op.format, Format.unusedZero])]
  rfl

theorem chord (ch : BitVec 4) (ord : BitVec 18) : Statement (.chord ch ord) := by
  intro nch _
  simp only [Instr.payload, Instr.word, payloadCount]
  rw [selectOp_mkWord .chord _ _ _ (by simp [Op.format, Format.unusedZero])]
  rfl

theorem rfeed (ch : BitVec 4) : Statement (.rfeed ch) := by
  intro nch _
  simp only [Instr.payload, Instr.word, payloadCount]
  rw [selectOp_mkWord .rfeed _ _ _ (by simp [Op.format, Format.unusedZero])]
  rfl

theorem spec (ch : BitVec 4) (floorDb : Word) : Statement (.spec ch floorDb) := by
  intro nch _
  simp only [Instr.payload, Instr.word, payloadCount]
  rw [selectOp_mkWord .spec _ _ _ (by simp [Op.format, Format.unusedZero])]
  rfl

theorem cgen (ch : BitVec 4) (bx bt bw bh binWidthHz floorDb : Word) : Statement (.cgen ch bx bt bw bh binWidthHz floorDb) := by
  intro nch _
  simp only [Instr.payload, Instr.word, payloadCount]
  rw [selectOp_mkWord .cgen _ _ _ (by simp [Op.format, Format.unusedZero])]
  rfl

theorem cget (ch : BitVec 4) : Statement (.cget ch) := by
  intro nch _
  simp only [Instr.payload, Instr.word, payloadCount]
  rw [selectOp_mkWord .cget _ _ _ (by simp [Op.format, Format.unusedZero])]
  rfl

theorem rdcrv (ch : BitVec 4) : Statement (.rdcrv ch) := by
  intro nch _
  simp only [Instr.payload, Instr.word, payloadCount]
  rw [selectOp_mkWord .rdcrv _ _ _ (by simp [Op.format, Format.unusedZero])]
  rfl

theorem ccoef (fs : Word) : Statement (.ccoef fs) := by
  intro nch _
  simp only [Instr.payload, Instr.word, payloadCount]
  rw [selectOp_mkWord .ccoef _ _ _ (by simp [Op.format, Format.unusedZero])]
  rfl

theorem apply : Statement .apply := by
  intro nch _
  simp only [Instr.payload, Instr.word, payloadCount]
  rw [selectOp_mkWord .apply _ _ _ (by simp [Op.format, Format.unusedZero])]
  rfl

theorem proc (n : BitVec 18) (samples : List Word) : Statement (.proc n samples) := by
  intro nch h
  have h' : samples.length = nch * n.toNat := by simpa [Instr.WellFormed] using h
  simp only [Instr.payload, Instr.word, payloadCount]
  rw [selectOp_mkWord .proc _ _ _ (by simp [Op.format, Format.unusedZero])]
  simp [h']

theorem rdcoef : Statement .rdcoef := by
  intro nch _
  simp only [Instr.payload, Instr.word, payloadCount]
  rw [selectOp_mkWord .rdcoef _ _ _ (by simp [Op.format, Format.unusedZero])]
  rfl

theorem wrr (r : BitVec 8) (v : Word) : Statement (.wrr r v) := by
  intro nch _
  simp only [Instr.payload, Instr.word, payloadCount]
  rw [selectOp_mkWord .wrr _ _ _ (by simp [Op.format, Format.unusedZero])]
  rfl

theorem rdr (r : BitVec 8) : Statement (.rdr r) := by
  intro nch _
  simp only [Instr.payload, Instr.word, payloadCount]
  rw [selectOp_mkWord .rdr _ _ _ (by simp [Op.format, Format.unusedZero])]
  rfl

theorem snap : Statement .snap := by
  intro nch _
  simp only [Instr.payload, Instr.word, payloadCount]
  rw [selectOp_mkWord .snap _ _ _ (by simp [Op.format, Format.unusedZero])]
  rfl

theorem tclr : Statement .tclr := by
  intro nch _
  simp only [Instr.payload, Instr.word, payloadCount]
  rw [selectOp_mkWord .tclr _ _ _ (by simp [Op.format, Format.unusedZero])]
  rfl

theorem tick (fs : Word) : Statement (.tick fs) := by
  intro nch _
  simp only [Instr.payload, Instr.word, payloadCount]
  rw [selectOp_mkWord .tick _ _ _ (by simp [Op.format, Format.unusedZero])]
  rfl

theorem poll (ch : BitVec 4) (fs bx bt bw bh : Word) : Statement (.poll ch fs bx bt bw bh) := by
  intro nch _
  simp only [Instr.payload, Instr.word, payloadCount]
  rw [selectOp_mkWord .poll _ _ _ (by simp [Op.format, Format.unusedZero])]
  rfl

end Sys2Proof.Laws.PayloadFraming
end

