-- ==== Sys2Proof/Laws/Step.lean ====
section
/-!
SUPPORT. What one step can do, said once: a reset, words arriving, or an agent's turn, which takes a micro-step, stutters,
refuses a command, or gives a command its effect.
-/

namespace Sys2Proof.Machine

/-- What a turn of port `p` can do from a state whose turn it is. -/
inductive TurnTo (s : State) (p : Port) (u : State) : State → Prop
  | micro (m : Micro) (hb : (s.port p).busy = some m) : TurnTo s p u (u.microStep m)
  | stutter (hb : (s.port p).busy = none) : TurnTo s p u u
  | refuse (hb : (s.port p).busy = none) (ws : List Word) (c : Cause) (w : Word) :
    TurnTo s p u ((u.setStream ws).raise c w)
  | run (hb : (s.port p).busy = none) (i : Instr) (rest : List Word) (t : State)
    (hd : decode s.nch (s.port p).stream = .ok (i, rest)) (hc : causeOf i (u.setStream rest) = none)
    (he : effect i (u.setStream rest) = .next t) : TurnTo s p u t

/-- Every next state of `step`. -/
theorem step_cases (s t : State) (h : step s = .next t) :
    (∃ es, s.sched = .reset :: es ∧ t = State.hardReset { s with sched := es }) ∨
      (∃ p ws es, s.sched = .send p ws :: es ∧ t = State.receive { s with sched := es } p ws) ∨
      ∃ p sp es, s.sched = .turn p sp :: es ∧
        TurnTo s p { s with sched := es, turn := { port := p, split := sp } } t := by
  unfold step at h
  cases hs : s.sched with
  | nil => simp [hs] at h
  | cons e es =>
    simp only [hs] at h
    cases e with
    | reset =>
      simp only [State.event, Host.Outcome.next.injEq] at h
      exact .inl ⟨es, rfl, h.symm⟩
    | send p ws =>
      simp only [State.event, Host.Outcome.next.injEq] at h
      exact .inr (.inl ⟨p, ws, es, rfl, h.symm⟩)
    | turn p sp =>
      refine .inr (.inr ⟨p, sp, es, rfl, ?_⟩)
      simp only [State.event, State.portStep] at h
      generalize hu : ({ s with sched := es, turn := { port := p, split := sp } } : State) = u at h
      have hup : u.port u.cur = s.port p := by
        rw [← hu]
        rfl
      have hun : u.nch = s.nch := by
        rw [← hu]
        rfl
      rw [hup, hun] at h
      cases hb : (s.port p).busy with
      | some m =>
        simp only [hb, Host.Outcome.next.injEq] at h
        subst h
        exact .micro m hb
      | none =>
        simp only [hb] at h
        split at h
        · rename_i i rest hd
          rcases exec_next _ _ _ h with ⟨c, -, rfl⟩ | ⟨hc, he⟩
          · exact .refuse hb _ _ _
          · exact .run hb i rest t hd hc he
        · cases h
          exact .stutter hb
        · cases h
          exact .stutter hb
        · cases h
          exact .refuse hb _ _ _
        · cases h
          exact .refuse hb _ _ _

/-- A relation that holds between a channel and its update, and between a channel and itself, holds between every channel
before and after the update. -/
theorem State.chan_modChan_rel (P : Channel → Channel → Prop) (hr : ∀ c, P c c) (s : State) (c : Nat)
    (f : Channel → Channel) (h : c < s.nch → P (s.chan c) (f (s.chan c))) (d : Nat) :
    P (s.chan d) ((s.modChan c f).chan d) := by
  by_cases hd : d = c
  · subst hd
    by_cases hn : d < s.nch
    · rw [State.chan_modChan_same _ _ _ hn]
      exact h hn
    · have : (s.modChan d f).chan d = s.chan d := by
        simp only [State.nch] at hn
        simp [State.chan, State.modChan, State.setChan, hn]
      rw [this]
      exact hr _
  · rw [State.chan_modChan_ne _ _ _ _ hd]
    exact hr _

/-- The channels after an update of one. -/
theorem State.mem_modChan (s : State) (c : Nat) (f : Channel → Channel) (x : Channel) (h : x ∈ (s.modChan c f).chans) :
    x ∈ s.chans ∨ (c < s.nch ∧ x = f (s.chan c)) := by
  rw [State.modChan_chans] at h
  rcases List.mem_or_eq_of_mem_set h with h' | h'
  · exact .inl h'
  · by_cases hc : c < s.nch
    · exact .inr ⟨hc, h'⟩
    · left
      have : s.chans.set c (f (s.chan c)) = s.chans := List.set_eq_of_length_le (Nat.le_of_not_lt hc)
      rwa [this] at h

/-! ## More of the ring buffers of a channel -/

namespace Channel

theorem prepare_fifosOk {cmax : Nat} (F : NumFormat) {c : Channel} (cap shape : Nat) (k : FifoKind) (h0 : 0 < cap)
    (h1 : cap ≤ cmax) (h : c.FifosOk cmax) : (c.prepare F cap shape k).FifosOk cmax := by
  obtain ⟨h2, h3, h4⟩ := h
  cases k with
  | sf => exact ⟨Fifo.prepare_ok _ _ _ _ h0 h1, h3, h4⟩
  | mf => exact ⟨h2, Fifo.prepare_ok _ _ _ _ h0 h1, h4⟩
  | cf => exact ⟨h2, h3, Fifo.prepare_ok _ _ _ _ h0 h1⟩

theorem changeOrder_fifosOk {cmax : Nat} (F : NumFormat) {c : Channel} (o : Order) (h : c.FifosOk cmax) :
    (c.changeOrder F o).FifosOk cmax := by
  obtain ⟨h1, h2, h3⟩ := h
  refine ⟨h1, ?_, h3⟩
  simp only [changeOrder]
  split
  · rename_i hp
    rw [Fifo.ok_prepared hp] at h2
    exact Fifo.prepare_ok _ _ _ _ h2.1 h2.2.1
  · exact h2

theorem takeBlock_fifosOk {cmax : Nat} {c : Channel} (blk : List Word) (hp : c.sf.prepared = true)
    (hr : 0 < c.sf.readable) (h : c.FifosOk cmax) : (c.takeBlock blk).FifosOk cmax :=
  ⟨Fifo.free_ok hp hr h.1, h.2.1, h.2.2⟩

theorem analyse_fifosOk {cmax : Nat} (cfg : Config) (f : Word) {c : Channel} (hp : c.mf.prepared = true)
    (h : c.FifosOk cmax) : (c.analyse cfg f).FifosOk cmax := push_fifosOk _ hp h

/-- What a push leaves of the prepared bits. -/
theorem push_prepared (c : Channel) (x : Item) :
    (c.push x).sf.prepared = c.sf.prepared ∧ (c.push x).mf.prepared = c.mf.prepared ∧
      (c.push x).cf.prepared = c.cf.prepared := by
  unfold push
  split <;> cases x <;> exact ⟨rfl, rfl, rfl⟩

theorem genCurve_fifosOk {cmax : Nat} (F : NumFormat) (stride : Nat) (bt bw bh b f : Word) {c : Channel}
    (hm : c.mf.prepared = true) (hr : 0 < c.mf.readable) (hc : c.cf.prepared = true) (h : c.FifosOk cmax) :
    (c.genCurve F stride bt bw bh b f).FifosOk cmax :=
  push_fifosOk _ hc (free_fifosOk .mf hm hr h)

theorem drainCurves_cf (n : Nat) (c : Channel) : (drainCurves n c).cf = { c.cf with rd := c.cf.rd + n } := by
  induction n generalizing c with
  | zero => rfl
  | succ n ih =>
    rw [drainCurves, ih]
    simp only [Fifo.free, Fifo.mk.injEq, true_and, and_true]
    omega

theorem drainCurves_rest (n : Nat) (c : Channel) :
    drainCurves n c = { c with cf := (drainCurves n c).cf, curve := (drainCurves n c).curve } := by
  induction n generalizing c with
  | zero => rfl
  | succ n ih =>
    rw [drainCurves, ih]

theorem drainCurves_fifosOk {cmax : Nat} {c : Channel} (n : Nat) (hp : c.cf.prepared = true) (hn : n ≤ c.cf.readable)
    (h : c.FifosOk cmax) : (drainCurves n c).FifosOk cmax := by
  obtain ⟨h1, h2, h3⟩ := h
  rw [drainCurves_rest]
  refine ⟨h1, h2, ?_⟩
  simp only [drainCurves_cf]
  rw [Fifo.ok_prepared hp] at h3
  rw [Fifo.ok_prepared (by exact hp)]
  simp only [Fifo.readable] at hn
  simp only
  omega

end Channel

end Sys2Proof.Machine
end

