-- ==== Sys2Proof/Laws/Units.lean ====
section
/-!
SUPPORT. The small lemmas of the number formats and of the transform unit: what each primitive of a format's table is,
and what the reference table answers on finite values.
-/

namespace Sys2Proof

/-! ## The table of a format named by the configuration -/

@[simp] theorem Numeric.arith_ofRat (F : NumFormat) (q : ℚ) : (Numeric.arith F).ofRat q = Numeric.ofRat F q := by
  simp [Numeric.arith, NumberFormat.arith, Numeric.ofRat, Numeric.rnd]

@[simp] theorem Numeric.arith_add (F : NumFormat) (a b : Word) : (Numeric.arith F).add a b = Numeric.add F a b := rfl

@[simp] theorem Numeric.arith_sub (F : NumFormat) (a b : Word) : (Numeric.arith F).sub a b = Numeric.sub F a b := rfl

@[simp] theorem Numeric.arith_mul (F : NumFormat) (a b : Word) : (Numeric.arith F).mul a b = Numeric.mul F a b := rfl

@[simp] theorem Numeric.arith_div (F : NumFormat) (a b : Word) : (Numeric.arith F).div a b = Numeric.div F a b := rfl

@[simp] theorem Numeric.arith_log10 (F : NumFormat) (a : Word) : (Numeric.arith F).log10 a = Numeric.log10 F a := rfl

@[simp] theorem Numeric.arith_finite (F : NumFormat) (a : Word) : (Numeric.arith F).finite a = Numeric.finite F a := rfl

@[simp] theorem Numeric.arith_isNan (F : NumFormat) (a : Word) : (Numeric.arith F).isNan a = Numeric.isNan F a := rfl

@[simp] theorem Numeric.arith_lt (F : NumFormat) (a b : Word) : (Numeric.arith F).lt a b = Numeric.lt F a b := rfl

@[simp] theorem Numeric.arith_le (F : NumFormat) (a b : Word) : (Numeric.arith F).le a b = Numeric.le F a b := rfl

/-! ## Formats supplied as data (R12) -/

/-- A listed operand has its entry. -/
theorem tableAt_of_lookup {κ ν : Type} [BEq κ] (entries : List (κ × ν)) (d : κ → ν) (k : κ) (v : ν)
    (h : entries.lookup k = some v) : tableAt entries d k = v := by
  simp [tableAt, h]

/-- An operand that is not listed has the default. -/
theorem tableAt_of_not_listed {κ ν : Type} [BEq κ] (entries : List (κ × ν)) (d : κ → ν) (k : κ)
    (h : entries.lookup k = none) : tableAt entries d k = d k := by
  simp [tableAt, h]

/-- The table of a function on some operands answers as the function on them. -/
theorem tableAt_map {κ ν : Type} [BEq κ] [LawfulBEq κ] (f d : κ → ν) (ks : List κ) (k : κ) (h : k ∈ ks) :
    tableAt (ks.map fun k => (k, f k)) d k = f k := by
  apply tableAt_of_lookup
  induction ks with
  | nil => cases h
  | cons a ks ih =>
    rw [List.map_cons, List.lookup_cons]
    by_cases e : k = a
    · simp [e]
    · rw [beq_eq_false_iff_ne.2 e]
      exact ih ((List.mem_cons.1 h).resolve_left e)

/-! ## The reference table on finite values (R11, R12) -/

namespace Reference

@[simp] theorem arithExt_add (x y : ℝ) : arithExt.add (.fin x) (.fin y) = .fin (x + y) := rfl

@[simp] theorem arithExt_sub (x y : ℝ) : arithExt.sub (.fin x) (.fin y) = .fin (x - y) := by
  simp [arithExt, NumberFormat.arith, format, Extended.sub, Extended.neg, Extended.add, sub_eq_add_neg]

@[simp] theorem arithExt_mul (x y : ℝ) : arithExt.mul (.fin x) (.fin y) = .fin (x * y) := rfl

theorem arithExt_div (x y : ℝ) (h : y ≠ 0) : arithExt.div (.fin x) (.fin y) = .fin (x / y) := by
  simp [arithExt, NumberFormat.arith, format, Extended.div, h]

@[simp] theorem arithExt_piMul (x : ℝ) : arithExt.piMul (.fin x) = .fin (Real.pi * x) := rfl

@[simp] theorem arithExt_lt (x y : ℝ) : arithExt.lt (.fin x) (.fin y) = decide (x < y) := rfl

@[simp] theorem arithExt_le (x y : ℝ) : arithExt.le (.fin x) (.fin y) = decide (x ≤ y) := rfl

end Reference

namespace Machine

/-! ## The transform unit (R154) -/

/-- A stored value is within `TOL` of a magnitude exactly when it is finite and no further from it. -/
theorem withinTol_eq_true (tol m : ℚ) (e : Ext) : withinTol tol m e = true ↔ ∃ v : ℚ, e = .fin v ∧ |v - m| ≤ tol := by
  cases e <;> simp [withinTol, abs_le]
  intro _
  constructor <;> intro h <;> linarith

/-- Every unit answers half as many magnitudes as there are samples. -/
@[simp] theorem fftmag_length (cfg : Config) (xs : List Word) : (fftmag cfg xs).length = xs.length / 2 := by
  unfold fftmag
  dsimp only
  split
  · simp
  · split <;> simp

/-- Windowing keeps the number of samples. -/
@[simp] theorem applyWindow_length {α : Type} (A : Arith α) (kind : WindowKind) (N : Nat) (work : List α) :
    (applyWindow A kind N work).length = work.length := by
  simp [applyWindow]

/-- A spectrum has one value for each magnitude. -/
@[simp] theorem spectrumOf_length (cfg : Config) (N : Nat) (win : List Word) (floorDb : Word) :
    (spectrumOf cfg N win floorDb).length = win.length / 2 := by
  simp [spectrumOf, spectrumWith]

end Machine

end Sys2Proof
end

