-- ==== Sys2Proof/Tests/Slice0.lean ====
section
/-!
SUPPORT. The model's own tests. Expected values come from spec/95_test_vectors.md (their ids stand in the
docstrings) or from the encoding tables of spec/30_encoding.md. The last part shows, for every statement with
hypotheses, a concrete case that meets them.
-/

namespace Sys2Proof.Tests

open Sys2Proof Sys2Proof.Machine

set_option maxRecDepth 8000

/-! ## Well-formedness (R97) -/

/-- `FPUSH` counts its payload in 18 bits. -/
theorem test_wf_refuses_long_push : (Instr.fpush 0 2 (List.replicate (2 ^ 18) 0)).WellFormed 2 = false := by
  rw [Instr.WellFormed, List.length_replicate]; decide

/-- `PROC n` has `NCH * n` payload words: one too few. -/
theorem test_wf_refuses_short_proc : (Instr.proc 2 [1, 2, 3]).WellFormed 2 = false := by decide

/-- `PROC n` has `NCH * n` payload words: one too many. -/
theorem test_wf_refuses_long_proc : (Instr.proc 0 [1]).WellFormed 2 = false := by decide

theorem test_wf_accepts :
    (Instr.proc 2 [1, 2, 3, 4]).WellFormed 2 = true ∧ (Instr.fpush 15 3 [1]).WellFormed 2 = true ∧
      (Instr.wrr 0xFF 0).WellFormed 2 = true := by decide

/-! ## Decoding: one word of each command, written out from R91, R92, R95 -/

theorem test_decode_fprep : decode 2 [0x10140010#32] = .ok (.fprep 1 1 16, []) := by decide
theorem test_decode_fpush :
    decode 2 [0x11080003#32, 1#32, 0x3F800000#32, 0x40000000#32] =
      .ok (.fpush 0 2 [1#32, 0x3F800000#32, 0x40000000#32], []) := by decide
theorem test_decode_fpull : decode 2 [0x120C0000#32] = .ok (.fpull 0 3, []) := by decide
theorem test_decode_favail : decode 2 [0x13540000#32] = .ok (.favail 5 1, []) := by decide
theorem test_decode_fovf : decode 2 [0x14180000#32] = .ok (.fovf 1 2, []) := by decide
theorem test_decode_chord : decode 2 [0x2010000C#32] = .ok (.chord 1 12, []) := by decide
theorem test_decode_rfeed : decode 2 [0x21100000#32, 7#32] = .ok (.rfeed 1, [7#32]) := by decide
theorem test_decode_spec : decode 2 [0x22100000#32, 0xC2400000#32] = .ok (.spec 1 0xC2400000#32, []) := by decide
theorem test_decode_cgen :
    decode 2 [0x30100000#32, 1#32, 2#32, 3#32, 4#32, 5#32, 6#32] = .ok (.cgen 1 1 2 3 4 5 6, []) := by decide
theorem test_decode_cget : decode 2 [0x31100000#32] = .ok (.cget 1, []) := by decide
theorem test_decode_rdcrv : decode 2 [0x32F00000#32] = .ok (.rdcrv 15, []) := by decide
theorem test_decode_ccoef : decode 2 [0x40000000#32, 0x473B8000#32] = .ok (.ccoef 0x473B8000#32, []) := by decide
theorem test_decode_apply : decode 2 [0x41000000#32] = .ok (.apply, []) := by decide
theorem test_decode_proc : decode 2 [0x42000001#32, 8#32, 9#32] = .ok (.proc 1 [8#32, 9#32], []) := by decide
theorem test_decode_rdcoef : decode 2 [0x43000000#32] = .ok (.rdcoef, []) := by decide
theorem test_decode_wrr : decode 2 [0x50000011#32, 1#32] = .ok (.wrr 0x11 1, []) := by decide
theorem test_decode_rdr : decode 2 [0x51000020#32] = .ok (.rdr 0x20, []) := by decide
theorem test_decode_snap : decode 2 [0x52000000#32] = .ok (.snap, []) := by decide
theorem test_decode_tclr : decode 2 [0x53000000#32] = .ok (.tclr, []) := by decide
theorem test_decode_tick : decode 2 [0x54000000#32, 0x473B8000#32] = .ok (.tick 0x473B8000#32, []) := by decide
theorem test_decode_poll :
    decode 2 [0x55100000#32, 1#32, 2#32, 3#32, 4#32, 5#32] = .ok (.poll 1 1 2 3 4 5, []) := by decide

/-- V30.5, V30.7, V30.9, V30.11, V30.14 to V30.16: illegal words. -/
theorem test_decode_illegal :
    decode 2 [0x12000001#32] = .error (.unusedNotZero .fpull 0x12000001#32) ∧
      decode 2 [0x2004000B#32] = .error (.unusedNotZero .chord 0x2004000B#32) ∧
      decode 2 [0x42100001#32] = .error (.unusedNotZero .proc 0x42100001#32) ∧
      decode 2 [0x50000111#32] = .error (.unusedNotZero .wrr 0x50000111#32) ∧
      decode 2 [0x00000000#32] = .error (.unknownOpcode 0) ∧
      decode 2 [0xFFFFFFFF#32] = .error (.unknownOpcode 0xFFFFFFFF#32) ∧
      decode 2 [0x15000000#32] = .error (.unknownOpcode 0x15000000#32) := by decide

/-- R62, R97: a command whose payload has not arrived whole is no command yet. -/
theorem test_decode_waits : decode 2 [0x42000001#32, 8#32] = .error (.payloadMissing .proc 2) := by decide

/-- R103: `UPD : fs` stands for the words of `CCOEF` and of `APPLY`. -/
theorem test_encode_upd :
    (Instr.upd 0x473B8000#32).flatMap encode = [0x40000000#32, 0x473B8000#32, 0x41000000#32] := by decide

/-- R103: `PUSHBLK 0 : 1, 2` is the word 0x11000002 and its samples (V40.1). -/
theorem test_encode_pushblk :
    encode (Instr.pushblk 0 [0x3F800000#32, 0x40000000#32]) = [0x11000002#32, 0x3F800000#32, 0x40000000#32] := by
  decide

/-! ## One step on a small state -/

/-- A state in which it is a port's turn and its commands run whole. -/
def on (p : Port) (s : State) : State := { s with turn := { port := p, split := false } }

/-- The response word and the payload of the command just run by the port, where it answered. -/
def answer (p : Port) : Result → Option (Word × List Word)
  | .next s => (s.port p).out.head?.map fun r => (r.word, r.payload)
  | .fault _ => none
  | .refused _ => none

/-- A function of the next state. -/
def after {α : Type} (f : State → α) : Result → Option α
  | .next s => some (f s)
  | .fault _ => none
  | .refused _ => none

/-- A prepared FIFO. -/
def fifo {α : Type} (shape wr rd : Nat) (slots : List α) (ovf : Nat) : Fifo α :=
  { prepared := true, cap := slots.length, shape := shape, wr := wr, rd := rd, slots := slots, ovf := ovf }

/-- The reset state of one channel with that channel changed. -/
def one (f : Channel → Channel) : State :=
  { State.resetFor Config.default 1 with chans := [f (Channel.afterReset .binary32)] }

/-- A channel with its sample FIFO replaced. -/
def withSf (q : Fifo (List Word)) (c : Channel) : Channel := { c with sf := q }

/-- A channel with its curve FIFO replaced. -/
def withCf (q : Fifo (List (Point Word))) (c : Channel) : Channel := { c with cf := q }

/-- V40.8: prepared anew, the elements are lost. -/
theorem test_fprep_again :
    after (fun s => ((s.chan 0).sf.cap, (s.chan 0).sf.shape, (s.chan 0).sf.wr, (s.chan 0).sf.rd, (s.chan 0).sf.ovf))
        (exec (.fprep 0 0 8) (on .B { one (withSf (fifo 1 3 1 [[1], [2]] 2)) with blkLen := some 5 })) =
      some (8, 5, 0, 0, 0) := by decide

/-- V40.6: BLKLEN unwritten. -/
theorem test_fprep_unwritten :
    answer .B (exec (.fprep 0 0 4) (on .B State.reset)) = some (0xF0000005#32, []) := by decide

/-- V40.3: with wr 2, rd 1, C 2 the element goes to slot 0. -/
theorem test_fpush_wraps :
    after (fun s => ((s.chan 0).sf.slots, (s.chan 0).sf.wr))
        (exec (.fpush 0 0 [0x40A00000]) (on .A (one (withSf (fifo 1 2 1 [[0x3F800000], [0x40000000]] 2))))) =
      some ([[0x40A00000#32], [0x40000000#32]], 3) := by decide

/-- V40.4: the overflow counter saturates. -/
theorem test_fpush_saturates :
    after (fun s => (s.chan 0).sf.ovf)
        (exec (.fpush 0 0 [7]) (on .A (one (withSf (fifo 1 2 0 [[1], [2]] 0x0FFFFFFF))))) = some 0x0FFFFFFF := by
  decide

/-- V40.7: the element of a curve FIFO goes with its count. -/
theorem test_fpull_curve :
    answer .B (exec (.fpull 0 2) (on .B (one (withCf
        (fifo 0 1 0 [[⟨0x3F800000, 0x40000000⟩, ⟨0x40400000, 0x40800000⟩], []] 0))))) =
      some (0x00000005#32, [2, 0x3F800000, 0x40000000, 0x40400000, 0x40800000]) := by decide

/-- V40.2: a pull from an empty FIFO. -/
theorem test_fpull_empty :
    answer .B (exec (.fpull 0 0) (on .B (one (withSf (fifo 1 3 3 [[1], [2]] 0))))) = some (0x10000000#32, []) := by
  decide

/-- V40.5: the producer's and the consumer's count are the same number. -/
theorem test_favail :
    answer .A (exec (.favail 0 0) (on .A (one (withSf (fifo 1 5 3 [[1], [2], [3], [4]] 0))))) =
      some (0x00000002#32, []) := by decide

/-- V40.5: agent H has no end of the FIFO. -/
theorem test_favail_wrong_port :
    answer .H (exec (.favail 0 0) (on .H (one (withSf (fifo 1 5 3 [[1], [2], [3], [4]] 0))))) =
      some (0xF0000002#32, []) := by decide

/-- V40.3, last command. -/
theorem test_fovf :
    answer .H (exec (.fovf 0 0) (on .H (one (withSf (fifo 1 3 3 [[1], [2]] 2))))) = some (0x00000002#32, []) := by
  decide

/-- V42.12: the spectrum FIFO is prepared anew with its capacity. -/
theorem test_chord_prepares :
    after (fun s =>
          ((s.chan 0).ord, (s.chan 0).mf.cap, (s.chan 0).mf.shape, (s.chan 0).mf.wr, (s.chan 0).mf.ovf,
            (s.chan 0).win.length))
        (exec (.chord 0 12) (on .B (one fun c =>
          { c with ord := some .o11, mf := fifo 1024 3 1 [[], [], [], []] 2 }))) =
      some (some .o12, 4, 2048, 0, 0, 4096) := by decide +kernel

/-- V42.11: order 14. -/
theorem test_chord_bad_order :
    answer .B (exec (.chord 0 14) (on .B State.reset)) = some (0xF0000003#32, []) := by decide

/-- V41.2: a block of 512 ones shifted into a window of zeros. -/
theorem test_rfeed_shifts :
    after (fun s => ((s.chan 0).win.getD 1535 9, (s.chan 0).win.getD 1536 9, (s.chan 0).win.length, (s.chan 0).sf.rd))
        (exec (.rfeed 0) (on .B (one fun c =>
          { c with
            ord := some .o11, win := List.replicate 2048 0
            sf := fifo 512 1 0 [List.replicate 512 0x3F800000, []] 0 }))) =
      some (0#32, 0x3F800000#32, 2048, 1) := by decide +kernel

/-- V41.4: a block longer than the window. -/
theorem test_rfeed_too_long :
    answer .B (exec (.rfeed 0) (on .B (one fun c =>
        { c with ord := some .o11, win := List.replicate 2048 0, sf := fifo 4096 1 0 [[], []] 0 }))) =
      some (0xF0000003#32, []) := by decide +kernel

/-- V42.10: the spectrum FIFO is full. -/
theorem test_spec_dropped :
    answer .B (exec (.spec 0 0xC2400000) (on .B (one fun c =>
        { c with ord := some .o11, win := List.replicate 2048 0, mf := fifo 1024 1 0 [[]] 0 }))) =
      some (0x20000000#32, []) := by decide +kernel

/-- V42.11: a floor that is no finite number. -/
theorem test_spec_bad_floor :
    answer .B (exec (.spec 0 0x7FC00000) (on .B (one fun c =>
        { c with ord := some .o11, win := List.replicate 2048 0, mf := fifo 1024 0 0 [[]] 0 }))) =
      some (0xF0000003#32, []) := by decide +kernel

/-- V43.6: at STRIDE 4096 only bin 0 is visited, and it is skipped. -/
theorem test_cgen_no_points :
    after (fun s => ((s.port .B).out.head?.map Response.word, (s.chan 0).cf.slots, (s.chan 0).cf.wr, (s.chan 0).mf.rd))
        (exec (.cgen 0 0 0 0x43960000 0x42C80000 0x41BB8000 0xC2400000) (on .B { (one fun c =>
          { c with
            ord := some .o11, mf := fifo 1024 1 0 [List.replicate 1024 0xC1A00000] 0
            cf := fifo 0 0 0 [[⟨1, 2⟩]] 0 }) with stride := 4096 })) =
      some (some 0x00000000#32, [[]], 1, 1) := by decide +kernel

/-- V43.9: nothing to pull. -/
theorem test_cgen_empty :
    answer .B (exec (.cgen 0 0 0 0x43960000 0x42C80000 0x41BB8000 0xC2400000) (on .B (one fun c =>
        { c with ord := some .o11, mf := fifo 1024 1 1 [[]] 0, cf := fifo 0 0 0 [[]] 0 }))) =
      some (0x10000000#32, []) := by decide +kernel

/-- V43.10: the newest of two polylines is kept. -/
theorem test_cget_newest :
    after (fun s => ((s.port .B).out.head?.map Response.word, (s.chan 0).curve, (s.chan 0).cf.rd))
        (exec (.cget 0) (on .B (one (withCf
          (fifo 0 2 0 [[⟨1, 2⟩, ⟨3, 4⟩, ⟨5, 6⟩], [⟨7, 8⟩, ⟨9, 10⟩]] 0))))) =
      some (some 0x00000002#32, [⟨7, 8⟩, ⟨9, 10⟩], 2) := by decide

/-- V43.10: the curve as words. -/
theorem test_rdcrv :
    answer .B (exec (.rdcrv 0) (on .B (one fun c => { c with curve := [⟨7, 8⟩, ⟨9, 10⟩] }))) =
      some (0x00000002#32, [7, 8, 9, 10]) := by decide

/-- The settings of the scenario of V44.5. -/
def t6 : ChainSettings Word :=
  { peakFreqHz := 0x447A0000, peakGainDb := 0x40C00000, peakQuality := 0x3F800000, lowCutFreqHz := 0x41A00000
    highCutFreqHz := 0x469C4000, lowCutSlopeOrder := 1, highCutSlopeOrder := 1, peakBypassed := false
    lowCutBypassed := false, highCutBypassed := false, analyzerEnabled := true }

/-- V44.12: no settings latched. -/
theorem test_ccoef_not_prepared :
    answer .B (exec (.ccoef 0x473B8000) (on .B State.reset)) = some (0xF0000004#32, []) := by decide

/-- V44.9: the flags for slope orders (2, 3). -/
theorem test_ccoef_flags :
    after (fun s => s.newc.map CoeffSet.flags)
        (exec (.ccoef 0x473B8000) (on .B { State.reset with
          settings := some { t6 with lowCutSlopeOrder := 2, highCutSlopeOrder := 3 } })) =
      some (some 0x0000010C#32) := by decide +kernel

/-- The identity set with its first cut group not bypassed. -/
def openLc : CoeffSet Word := { CoeffSet.ident .binary32 with gbypLC := false }

/-- V44.11: the set posted is the one computed, and the one in use stays. -/
theorem test_apply :
    after (fun s => (s.mbox, s.act)) (exec .apply (on .B { State.reset with newc := some openLc })) =
      some (some openLc, CoeffSet.ident .binary32) := by decide

/-- V44.12: nothing computed. -/
theorem test_rdcoef_not_prepared :
    answer .B (exec .rdcoef (on .B State.reset)) = some (0xF0000004#32, []) := by decide

/-- P2, row 13: 46 words, the flags first; stage 1 is an identity stage. -/
theorem test_rdcoef :
    after (fun s => (s.port .B).out.head?.map fun r => (r.word, r.payload.length, (r.payload.drop 6).take 5))
        (exec .rdcoef (on .B { State.reset with newc := some openLc })) =
      some (some (0x0000002E#32, 46, [0x3F800000#32, 0, 0, 0, 0])) ∧
    after (fun s => (s.port .B).out.head?.map fun r => r.payload.head?)
        (exec .rdcoef (on .B { State.reset with newc := some openLc })) = some (some (some 0x00000DFF#32)) := by
  decide

/-- V44.12: after reset the chain is the identity. -/
theorem test_proc_identity :
    answer .A (exec (.proc 2 [0x3F000000, 0xBF000000]) (on .A (State.resetFor Config.default 1))) =
      some (0x00000002#32, [0x3F000000, 0xBF000000]) := by decide

/-- The peak stage of the exact case A = 2 of V44.7, alone active. -/
def twice : CoeffSet Word :=
  { CoeffSet.ident .binary32 with
    gbypPK := false
    stage := { (CoeffSet.ident .binary32).stage with
      pk := { co := { b0 := 0x40000000, b1 := 0, b2 := 0xBF2AAAAB, a1 := 0, a2 := 0x3EAAAAAB }, byp := false } } }

/-- V44.7, V44.11, V44.13: the set in the mailbox is taken; the impulse response begins 2, 0; each channel has its own
state. -/
theorem test_proc_takes_mailbox :
    after (fun s => ((s.port .A).out.head?.map Response.payload, s.mbox.isNone, s.act == twice,
          (s.chan 0).z.pk, (s.chan 1).z.pk.s2))
        (exec (.proc 2 [0x3F800000, 0, 0, 0x3F800000]) (on .A { State.reset with mbox := some twice })) =
      some (some [0x40000000, 0, 0, 0x40000000], true, true, ⟨0xBFAAAAAB, 0⟩, 0xBFAAAAAB) := by decide +kernel

/-- V45.2: the bits above the field are dropped; a parameter write sets `PCHG`. -/
theorem test_wrr_truncates :
    after (fun s => (s.params.loCutSlope, s.pchg)) (exec (.wrr 0x05 0xFFFFFFF9) (on .H State.reset)) =
      some (some 1, true) := by decide

/-- V45.3: STRIDE 4096 is stored, 4097 and 0 are refused. -/
theorem test_wrr_stride :
    after State.stride (exec (.wrr 0x11 4096) (on .B State.reset)) = some 4096 ∧
      answer .B (exec (.wrr 0x11 4097) (on .B State.reset)) = some (0xF0000003#32, []) ∧
      answer .B (exec (.wrr 0x11 0) (on .B State.reset)) = some (0xF0000003#32, []) ∧
      answer .H (exec (.wrr 0x11 1) (on .H State.reset)) = some (0xF0000002#32, []) := by decide

/-- V60.2: the fault record of an illegal word on port A. -/
theorem test_rdr_err_cause :
    answer .H (exec (.rdr 0x21) (on .H { State.reset with
        err := { valid := true, cause := 1, port := 0, word := 0x12000001 } })) =
      some (0x00000001#32, [0x80000001]) := by decide

/-- V45.1, V42.12, V45.6: an unwritten register, an order register, and STATUS with all but `PCHG` set. -/
theorem test_rdr_status :
    answer .A (exec (.rdr 0x01) (on .A State.reset)) = some (0xF0000005#32, []) ∧
      answer .H (exec (.rdr 0x31) (on .H (one id))) = some (0xF0000003#32, []) ∧
      answer .B (exec (.rdr 0x30) (on .B (one fun c => { c with ord := some .o12 }))) =
        some (0x00000001#32, [0x0000000C]) ∧
      answer .B (exec (.rdr 0x20) (on .B { State.reset with
        settings := some t6, newc := some openLc, mbox := some openLc })) =
        some (0x00000001#32, [0x0000000E]) := by decide

/-- The parameter registers of P2, rows 1 to 9. -/
def params : Params :=
  { peakFreq := some 0x447A0000, peakGain := some 0x40C00000, peakQ := some 0x3F800000
    loCutFreq := some 0x41A00000, hiCutFreq := some 0x469C4000, loCutSlope := some 1, hiCutSlope := some 1
    bypass := some 0, anEn := some 1 }

/-- V45.4: the nine registers are latched. -/
theorem test_snap :
    after State.settings (exec .snap (on .B { State.reset with params := params })) = some (some t6) := by decide

/-- V45.4: eight of nine written. -/
theorem test_snap_unwritten :
    answer .B (exec .snap (on .B { State.reset with params := { params with anEn := none } })) =
      some (0xF0000005#32, []) := by decide

/-- V45.5. -/
theorem test_tclr :
    after (fun s => ((s.port .B).out.head?.map Response.word, s.pchg))
        (exec .tclr (on .B { State.reset with pchg := true })) = some (some 0x00000001#32, false) := by decide

/-- V45.6, P2 row 11: the coefficients posted have the flags 0x1CE. -/
theorem test_tick :
    after (fun s => ((s.port .B).out.head?.map Response.word, s.statusWord, s.mbox.map CoeffSet.flags))
        (exec (.tick 0x473B8000) (on .B { State.reset with params := params, pchg := true })) =
      some (some 0x00000001#32, 0x0000000E, some 0x000001CE) := by decide +kernel

/-- V45.6: a parameter register unwritten. -/
theorem test_tick_unwritten :
    after (fun s => ((s.port .B).out.head?.map Response.word, s.pchg))
        (exec (.tick 0x473B8000) (on .B { State.reset with pchg := true })) = some (some 0xF0000005#32, true) := by
  decide

/-- V45.7: nothing queued, the curve is the one there was. -/
theorem test_poll_nothing_queued :
    answer .B (exec (.poll 0 0x473B8000 0 0 0x43960000 0x42C80000) (on .B (one fun c =>
        { c with
          ord := some .o11, win := List.replicate 2048 0, sf := fifo 1 0 0 [[]] 0, mf := fifo 1024 0 0 [[]] 0
          cf := fifo 0 0 0 [[]] 0, curve := [⟨7, 8⟩, ⟨9, 10⟩] }))) =
      some (0x00000002#32, [7, 8, 9, 10]) := by decide +kernel

/-- R99, R250: one polyline queued, bit 27 says that the curve was replaced. -/
theorem test_poll_replaces :
    answer .B (exec (.poll 0 0x473B8000 0 0 0x43960000 0x42C80000) (on .B (one fun c =>
        { c with
          ord := some .o11, win := List.replicate 2048 0, sf := fifo 1 0 0 [[]] 0, mf := fifo 1024 0 0 [[]] 0
          cf := fifo 0 1 0 [[⟨7, 8⟩]] 0 }))) =
      some (0x08000001#32, [7, 8]) := by decide +kernel

/-- A number format given as data, in which 2 and 3 have the words 1 and 2, and both 5 and 6 round to 7, which is 5. -/
def supplied : FormatTable :=
  { value := [(0, .fin 0), (1, .fin 2), (2, .fin 3), (7, .fin 5)]
    rnd := [(.fin 0, 0), (.fin 5, 7), (.fin 6, 7)]
    real := [] }

/-- Its state after reset, with one channel and a peak stage that multiplies by 2. -/
def suppliedState : State :=
  let s := State.resetFor { Config.default with num := .other 0 supplied } 1
  { s with act := { s.act with
      gbypPK := false
      stage := { s.act.stage with pk := { co := { b0 := 1, b1 := 0, b2 := 0, a1 := 0, a2 := 0 }, byp := false } } } }

/-- R12: `PROC` rounds by the table of the configuration: twice 3 is 6, stored as the word 7. -/
theorem test_proc_supplied_format :
    answer .A (exec (.proc 1 [2]) (on .A suppliedState)) = some (0x00000001#32, [7]) := by decide +kernel

/-! ## Priorities, illegal words, and steps -/

/-- V60.1: a bad selector, then the wrong port, then what is not there, then the operand. -/
theorem test_priorities :
    answer .A (exec (.fpull 0 3) (on .A State.reset)) = some (0xF0000003#32, []) ∧
      answer .A (exec (.fpull 0 0) (on .A State.reset)) = some (0xF0000002#32, []) ∧
      answer .B (exec (.fprep 0 0 0) (on .B State.reset)) = some (0xF0000005#32, []) ∧
      answer .B (exec (.fprep 0 1 0) (on .B State.reset)) = some (0xF0000004#32, []) := by decide

/-- V60.2: an illegal word on port A. -/
theorem test_illegal_word :
    after (fun s => (s.err, (s.port .A).pc, (s.port .A).stream, (s.port .A).out.map Response.word))
        (step { State.reset.receive .A [0x12000001, 0x42000000] with sched := [.turn .A true] }) =
      some (⟨true, 1, 0, 0x12000001⟩, 1, [0x42000000], [0xF0000001]) := by decide

/-- The word 0x42000004 placed at reset runs as `PROC 4` on the two channels of the default configuration. -/
theorem test_step_runs_word :
    after (fun s => ((s.port .A).out.map fun r => (r.word, r.payload.length), (s.port .A).pc))
        (step (State.reset.withFetchWord 32 0x42000004)) = some ([(0x00000004#32, 8)], 1) := by decide

/-- R66, R248: a `TICK` that is cut clears `PCHG` in its first step and answers nothing yet. -/
theorem test_tick_cut :
    after (fun s => (s.pchg, s.ports.b.busy, s.ports.b.out.length))
        (exec (.tick 0x473B8000) { State.reset with
          params := params, pchg := true, turn := { port := .B, split := true } }) =
      some (false, some (.tickLatch 0x473B8000), 0) := by decide

/-! ## Numbers -/

/-- Two patterns at most two last places apart: the vectors of the spec are those of the exact formulas. -/
def near (a b : Word) : Bool := decide (a.toNat ≤ b.toNat + 2) && decide (b.toNat ≤ a.toNat + 2)

/-- V42.5: 1, 0.5, 2, 10, 0.001, 0, -1, NaN and +Inf at the floor -48, and 0.5 at the floor -3. -/
theorem test_to_db :
    [0x3F800000, 0x41200000, 0x3A83126F, 0, 0xBF800000, 0x7FC00000, 0x7F800000].map
        (toDb (Numeric.arith .binary32) · 0xC2400000) =
      [0, 0x41A00000, 0xC2400000, 0xC2400000, 0xC2400000, 0xC2400000, 0xC2400000] ∧
    near (toDb (Numeric.arith .binary32) 0x3F000000 0xC2400000) 0xC0C0A8C1 = true ∧
    near (toDb (Numeric.arith .binary32) 0x40000000 0xC2400000) 0x40C0A8C1 = true ∧
    near (toDb (Numeric.arith .binary32) 0x3B83126F 0xC2400000) 0xC23FD5D0 = true ∧
    toDb (Numeric.arith .binary32) 0x3F000000 0xC0400000 = 0xC0400000 := by decide +kernel

/-- V43.1: 20, 20000, 10, 1000, 0 and -1 on the axis from 20 to 20000. -/
theorem test_map_log10 :
    (mapFromLog10 (Numeric.arith .binary32) 0x41A00000 0x41A00000 0x469C4000 = 0 ∧
      mapFromLog10 (Numeric.arith .binary32) 0x469C4000 0x41A00000 0x469C4000 = 0x3F800000) ∧
    near (mapFromLog10 (Numeric.arith .binary32) 0x41200000 0x41A00000 0x469C4000) 0xBDCD80CE = true ∧
    near (mapFromLog10 (Numeric.arith .binary32) 0x447A0000 0x41A00000 0x469C4000) 0x3F10FA91 = true ∧
    mapFromLog10 (Numeric.arith .binary32) 0 0x41A00000 0x469C4000 = 0xFF800000 ∧
    mapFromLog10 (Numeric.arith .binary32) 0xBF800000 0x41A00000 0x469C4000 = 0x7FC00000 := by decide +kernel

/-- V43.2: -48, -24, 0, 6 and -20 dB between 0 and 100. -/
theorem test_point_y :
    [0xC2400000, 0xC1C00000, 0, 0x40C00000].map
        (fun d => pointY (Numeric.arith .binary32) d 0 0x42C80000 0xC2400000) =
      [0x42C80000, 0x42480000, 0, 0xC1480000] ∧
    near (pointY (Numeric.arith .binary32) 0xC1A00000 0 0x42C80000 0xC2400000) 0x4226AAAB = true := by decide +kernel

/-- V43.3: bins 1 and 512, and bin 0, which is skipped. -/
theorem test_point_x :
    near (pointX (Numeric.arith .binary32) 1 0x43960000 0x41BB8000) 0x40DC6B8E = true ∧
      near (pointX (Numeric.arith .binary32) 512 0x43960000 0x41BB8000) 0x438AE856 = true ∧
      pointOf (Numeric.arith .binary32) 0 0xC1A00000 0 0x43960000 0x42C80000 0x41BB8000 0xC2400000 = none := by
  decide +kernel

/-- V41.1. -/
theorem test_shift_in :
    shiftIn [0, 0, 0, 0, 1, 2, 3, 4] [5, 6] = [0, 0, 1, 2, 3, 4, 5, 6] ∧
      shiftIn [1, 2, 3] [7, 8, 9] = [7, 8, 9] := by decide

/-- V42.1: the window at N = 8. -/
theorem test_window :
    near (windowWeight (Numeric.arith .binary32) .bh4 8 3) 0x3F63ADBD = true ∧
      near (windowWeight (Numeric.arith .binary32) .bh4 8 2) 0x3EAA6927 = true := by decide +kernel

/-- V42.3: the transform at N = 8. -/
theorem test_fftmag :
    fftmag Config.default (List.replicate 8 0x3F800000) = [0x41000000, 0, 0, 0] ∧
      fftmag Config.default [0x3F800000, 0, 0, 0, 0, 0, 0, 0] =
        [0x3F800000, 0x3F800000, 0x3F800000, 0x3F800000] := by decide +kernel

/-- R153, R160: samples that are all zero have magnitudes 0, whatever the unit. -/
theorem test_fftmag_zero : fftmag { Config.default with fft := .other 1 } [0, 0, 0x80000000, 0] = [0, 0] := by
  decide +kernel

/-- V44.1, V44.3, V44.4: the three designs of the scenario in binary32. -/
theorem test_designs :
    lowCutBiquad (Numeric.arith .binary32) 0x41A00000 (sectionQuality (Numeric.arith .binary32) 1 0) 0x473B8000 =
      ⟨0x3F7F86CB, 0xBFFF86CB, 0x3F7F86CB, 0xBFFF86AE, 0x3F7F0DCF⟩ ∧
    (let h := highCutBiquad (Numeric.arith .binary32) 0x469C4000 (sectionQuality (Numeric.arith .binary32) 1 0)
      0x473B8000
    near h.b0 0x3F30765E && near h.b1 0x3FB0765E && near h.a1 0x3FA3CAFF && near h.a2 0x3EF486F9) = true ∧
    (let c := peakBiquad (Numeric.arith .binary32) 0x447A0000 0x40C00000 0x3F800000 0x473B8000
    near c.b0 0x3F85A041 && near c.b1 0xBFF299DF && near c.b2 0x3F5E230C && near c.a1 0xBFF299DF &&
      near c.a2 0x3F69638F) = true := by decide +kernel

/-! ## Cases that meet the hypotheses of the statements

One theorem for each statement of Obligations.lean that has hypotheses, with a case for each clause. -/

/-- One channel whose three FIFOs of capacity 2 hold `n` elements. -/
def holding (n : Nat) : Channel :=
  { Channel.afterReset .binary32 with
    ord := some .o11
    win := List.replicate 2048 0
    sf := fifo 1 n 0 [[0x3F800000], [0x40000000]] 0
    mf := fifo 1024 n 0 [List.replicate 1024 0xC1A00000, List.replicate 1024 0] 0
    cf := fifo 0 n 0 [[⟨1, 2⟩], []] 0 }

/-- The block with that one channel, its registers at reset, BLKLEN 1. -/
def bench (n : Nat) : State := { one (fun _ => holding n) with blkLen := some 1 }

/-- The same with the words on a port and that port's turn next. -/
def loaded (p : Port) (ws : List Word) (s : State) : State := { s.receive p ws with sched := [.turn p false] }

theorem bench_fifos : (holding 0).FifosOk 262143 ∧ (holding 1).FifosOk 262143 ∧ (holding 2).FifosOk 262143 := by
  simp [Channel.FifosOk, Fifo.Ok, holding, fifo]

theorem bench_inv (n : Nat) (h : (holding n).FifosOk 262143) (p : Port) (ws : List Word) :
    (loaded p ws (bench n)).FifoInv ∧ (on p (bench n)).FifoInv := by
  cases p <;>
    simpa [State.FifoInv, loaded, on, bench, one, State.receive, State.setPort, Ports.set, State.port, Ports.get,
      State.resetFor, PortState.idle, Config.default] using h

theorem bench_shapes (n : Nat) : (loaded .B [] (bench n)).ShapeInv := by
  simp [State.ShapeInv, loaded, bench, one, State.receive, State.setPort, Ports.set, State.port, Ports.get,
    State.resetFor, PortState.idle, Channel.ShapesOk, Channel.WindowOk, holding, fifo, Channel.size, Order.size,
    Order.log2, pmax, Channel.afterReset]

theorem bench_regs : (on .B (bench 1)).ConfigRegsOk ∧ (on .B (bench 1)).err.Ok := by
  refine ⟨⟨?_, by decide, by decide, ?_⟩, by simp [Err.Ok, on, bench, one, State.resetFor]⟩
  · decide +kernel
  · intro k hk
    cases hk
    decide

theorem witness_DecodeEncode :
    (Instr.cgen 15 1 2 3 4 5 6).WellFormed 2 = true ∧ (Instr.proc 1 [1, 2]).WellFormed 2 = true := by decide

theorem witness_DecodeSound :
    ∃ (ws rest : List Word) (i : Instr), decode 2 ws = .ok (i, rest) :=
  ⟨[0x22000000, 5, 6], [6], .spec 0 5, by decide⟩

theorem witness_IllegalWords :
    (∃ (s : State) (w : Word) (rest : List Word), s.sched = [.turn .A false] ∧ (s.port .A).busy = none ∧
      (s.port .A).stream = w :: rest ∧ ∀ o : Op, w &&& o.mask ≠ o.matchWord) ∧
      ∃ (w : Word) (o : Op), w &&& o.mask = o.matchWord :=
  ⟨⟨loaded .A [0x12000001] State.reset, 0x12000001, [], by decide, by decide, by decide, by
    intro o; cases o <;> decide⟩, 0x12FC0000, .fpull, by decide⟩

/-- Infinity, `NaN`, the least and the greatest normal exponent, a subnormal. -/
theorem witness_WordFormats :
    [0x7F800000#32, 0x7FC00000#32, 0x00800000#32, 0x7F7FFFFF#32, 0x80000001#32].map
        (fun w => ((w.extractLsb' 23 8).toNat, (w.extractLsb' 0 23).toNat)) =
      [(255, 0), (255, 0x400000), (1, 0), (254, 0x7FFFFF), (0, 1)] := by decide

/-- The two sides of the overflow bound, and a tie between 1 and its successor. -/
theorem witness_Binary32RoundsToNearestEven :
    (|(0 : ℚ)| < 2 ^ 128 - 2 ^ 103 ∧ (2 : ℚ) ^ 128 - 2 ^ 103 ≤ |(2 : ℚ) ^ 128|) ∧
      Numeric.ofRat .binary32 (1 + mkRat 1 (2 ^ 24)) = 0x3F800000 ∧
      Numeric.value .binary32 0x3F800000 = .fin 1 ∧
      Numeric.value .binary32 0x3F800001 = .fin (1 + mkRat 1 (2 ^ 23)) := by
  refine ⟨⟨by norm_num, by norm_num⟩, by decide +kernel, by decide +kernel, by decide +kernel⟩

theorem witness_StepRunsDecoded :
    (∃ (s : State) (i : Instr) (rest : List Word), s.sched = [.turn .A false] ∧ (s.port .A).busy = none ∧
      decode s.nch (s.port .A).stream = .ok (i, rest)) ∧
    (∃ (s : State) (m : Micro), s.sched = [.turn .A false] ∧ (s.port .A).busy = some m) ∧
    (∃ s : State, s.sched = [.turn .A false] ∧ (s.port .A).busy = none ∧
      decode s.nch (s.port .A).stream = .error .noWord) ∧
    (∃ s : State, s.sched = [.turn .A false] ∧ (s.port .A).busy = none ∧
      decode s.nch (s.port .A).stream = .error (.payloadMissing .proc 4)) ∧
    (∃ s : State, s.sched = [.send .H [1, 2]]) ∧ ∃ s : State, s.sched = [] :=
  ⟨⟨loaded .A [0x42000000] State.reset, .proc 0 [], [], by decide, by decide, by decide⟩,
    ⟨{ State.reset with
        sched := [.turn .A false]
        ports := { State.reset.ports with a := { PortState.idle with busy := some (.procRun 0 []) } } },
      .procRun 0 [], by decide, by decide⟩,
    ⟨loaded .A [] State.reset, by decide, by decide, by decide⟩,
    ⟨loaded .A [0x42000002, 1] State.reset, by decide, by decide, by decide⟩,
    ⟨{ State.reset with sched := [.send .H [1, 2]] }, rfl⟩, ⟨State.reset, rfl⟩⟩

theorem witness_ResetValues : ∃ s : State, s.sched = [.reset] ∧ s.pchg = true :=
  ⟨{ State.reset with sched := [.reset], pchg := true }, rfl, rfl⟩

theorem witness_OneResponsePerCommand : ∃ (i : Instr) (s t : State), exec i s = .next t ∧ (s.port s.cur).out = [] :=
  ⟨.tclr, on .B State.reset, _, rfl, rfl⟩

theorem witness_RefusedCommand :
    ∃ (s : State) (i : Instr) (rest : List Word), s.sched = [.turn .A false] ∧ (s.port .A).busy = none ∧
      decode s.nch (s.port .A).stream = .ok (i, rest) ∧
      causeOf i { s with turn := { port := .A, split := false } } = some .wrongPort :=
  ⟨loaded .A [0x53000000] State.reset, .tclr, [], by decide, by decide, by decide, by decide⟩

theorem witness_UnrefusedCommand :
    causeOf .tclr (on .B State.reset) = none ∧ causeOf (.fprep 0 2 4) (on .B State.reset) = none := by decide

theorem witness_PortRights : selectorsOk (.fpull 1 2) State.reset = true ∧ selectorsOk .snap State.reset = true := by
  decide

theorem witness_ErrSticky : ∃ s t : State, step s = .next t ∧ t.err ≠ s.err :=
  ⟨loaded .A [0x53000000] State.reset, _, rfl, by decide⟩

/-- Each of the three kinds, at the least and the greatest capacity. -/
theorem witness_FprepResult :
    (on .B (bench 0)).cur = .B ∧ (0 : BitVec 4).toNat < (on .B (bench 0)).nch ∧ 0 < (1 : BitVec 18).toNat ∧
      (0x3FFFF : BitVec 18).toNat ≤ (on .B (bench 0)).cfg.cmax ∧ (on .B (bench 0)).blkLen = some 1 ∧
      (on .B (bench 0)).pushInFlight 0 = false ∧ ((on .B (bench 0)).chan 0).ord = some .o11 := by decide

/-- The bench with agent A between the steps of a push into its sample FIFO. -/
def pushing (m : Micro) : State :=
  on .B { bench 0 with ports := { (bench 0).ports with a := { PortState.idle with busy := some m } } }

theorem witness_FprepDuringPush :
    (pushing (.pushCopy 0 (.samples [1]))).cur = .B ∧ (pushing (.pushPublish 0 .sf)).cur = .B ∧
      (0 : BitVec 4).toNat < (pushing (.pushPublish 0 .sf)).nch ∧ 0 < (1 : BitVec 18).toNat ∧
      (1 : BitVec 18).toNat ≤ (pushing (.pushPublish 0 .sf)).cfg.cmax ∧
      (pushing (.pushPublish 0 .sf)).blkLen = some 1 ∧
      (pushing (.pushCopy 0 (.samples [1]))).ports.a.busy = some (.pushCopy 0 (.samples [1])) ∧
      (pushing (.pushPublish 0 .sf)).ports.a.busy = some (.pushPublish 0 .sf) := by decide

/-- The bench can take another element of each kind when it holds 0 or 1, and none when it holds 2. -/
theorem witness_FpushResult :
    (on .A (bench 1)).cur = .A ∧ (on .B (bench 1)).cur = .B ∧ (on .A (bench 1)).turn.split = false ∧
      (0 : BitVec 4).toNat < (on .A (bench 1)).nch ∧ (holding 1).sf.prepared = true ∧ (holding 1).mf.prepared = true ∧
      (holding 1).cf.prepared = true ∧ [0x3F800000#32].length = (holding 1).sf.shape ∧
      (List.replicate 1024 0x3F800000#32).length = (holding 1).mf.shape ∧
      (holding 1).sf.wr - (holding 1).sf.rd < (holding 1).sf.cap ∧
      (holding 1).mf.wr - (holding 1).mf.rd < (holding 1).mf.cap ∧
      (holding 1).cf.wr - (holding 1).cf.rd < (holding 1).cf.cap ∧
      (holding 2).sf.cap ≤ (holding 2).sf.wr - (holding 2).sf.rd ∧
      (holding 2).mf.cap ≤ (holding 2).mf.wr - (holding 2).mf.rd ∧
      (holding 2).cf.cap ≤ (holding 2).cf.wr - (holding 2).cf.rd ∧ ([] : List (Point Word)).length ≤ 4096 ∧
      (List.replicate 4096 (Point.mk 1 2)).length ≤ 4096 := by decide +kernel

theorem witness_FpullResult :
    (on .B (bench 1)).cur = .B ∧ (on .B (bench 1)).turn.split = false ∧ (0 : BitVec 4).toNat < (on .B (bench 1)).nch ∧
      (holding 1).sf.rd < (holding 1).sf.wr ∧ (holding 1).mf.rd < (holding 1).mf.wr ∧
      (holding 1).cf.rd < (holding 1).cf.wr ∧
      (holding 1).sf.slots[(holding 1).sf.rd % (holding 1).sf.cap]? = some [0x3F800000] ∧
      (holding 1).mf.slots[(holding 1).mf.rd % (holding 1).mf.cap]? = some (List.replicate 1024 0xC1A00000) ∧
      (holding 1).cf.slots[(holding 1).cf.rd % (holding 1).cf.cap]? = some [⟨1, 2⟩] ∧ fifoKind 2 = some .cf ∧
      ((holding 0).fifo .cf).prepared = true ∧ ((holding 0).fifo .cf).wr ≤ ((holding 0).fifo .cf).rd := by
  decide +kernel

theorem witness_FavailFovfResult :
    fifoKind 0 = some .sf ∧ fifoKind 1 = some .mf ∧ fifoKind 2 = some .cf ∧
      (0 : BitVec 4).toNat < (on .A (bench 1)).nch ∧ ((holding 1).fifo .sf).prepared = true ∧
      (on .A (bench 1)).cur = .A ∧ (on .B (bench 1)).cur = .B := by decide

theorem witness_FifoLaw :
    (holding 0).sf.prepared = true ∧ (holding 0).sf.Ok 262143 ∧ (holding 0).sf.readable = 0 ∧
      [[1#32], [2#32]].length ≤ (holding 0).sf.cap :=
  ⟨rfl, bench_fifos.1.1, rfl, by decide⟩

theorem witness_FifoInvariant :
    ∃ s t : State, s.FifoInv ∧ step s = .next t ∧ ∃ c ∈ t.chans, (c.fifo .sf).prepared = true :=
  ⟨loaded .B [0x12000000] (bench 1), _, (bench_inv 1 bench_fifos.2.1 .B _).1, rfl, _, List.mem_cons_self, rfl⟩

/-- Each end of the ranges of R7, and a number format in which -48 is finite. -/
theorem witness_InvariantsAtReset :
    Config.default.Ok 1 ∧ Config.default.Ok 16 ∧ ({ Config.default with cmax := 1, tol := 0 }).Ok 2 ∧
      Config.default.num = .binary32 ∧ Numeric.finite .binary32 (Numeric.ofRat .binary32 (-48)) = true := by
  refine ⟨⟨by decide, by decide, by decide, by decide, by norm_num [Config.default]⟩,
    ⟨by decide, by decide, by decide, by decide, by norm_num [Config.default]⟩,
    ⟨by decide, by decide, by decide, by decide, le_refl _⟩, rfl, by decide +kernel⟩

theorem witness_CursorsMonotone :
    (∃ s t : State, s.FifoInv ∧ step s = .next t ∧ 0 < s.nch ∧ (s.chan 0).sf.rd < (t.chan 0).sf.rd) ∧
      ∃ s t : State, s.FifoInv ∧ step s = .next t ∧ 0 < s.nch ∧ (s.chan 0).cf.wr = 1 ∧ (t.chan 0).cf.wr = 0 :=
  ⟨⟨loaded .B [0x12000000] (bench 1), _, (bench_inv 1 bench_fifos.2.1 .B _).1, rfl, by decide, by decide⟩,
    ⟨loaded .B [0x10080001] (bench 1), _, (bench_inv 1 bench_fifos.2.1 .B _).1, rfl, by decide, rfl, by decide⟩⟩

/-- A pull that is cut goes on in later steps. -/
theorem witness_CutEqualsWhole :
    ∃ s t : State, exec (.fpull 0 0) { s with turn := { s.turn with split := true } } = .next t ∧
      (t.port s.cur).busy = some (.pullCopy 0 .sf) :=
  ⟨on .B (bench 1), _, rfl, by decide⟩

theorem witness_ShapeInvariant : ∃ s t : State, s.FifoInv ∧ s.ShapeInv ∧ step s = .next t :=
  ⟨loaded .B [] (bench 1), _, (bench_inv 1 bench_fifos.2.1 .B _).1, bench_shapes 1, rfl⟩

theorem witness_StateOwnership :
    (∃ s t : State, s.FifoInv ∧ s.sched = [.turn .A false] ∧ step s = .next t) ∧
      (∃ s t : State, s.FifoInv ∧ s.sched = [.turn .B false] ∧ step s = .next t ∧
        ∀ ch cap rest, decode s.nch s.ports.b.stream ≠ .ok (.fprep ch 0 cap, rest)) ∧
      ∃ s t : State, s.FifoInv ∧ s.sched = [.turn .H false] ∧ step s = .next t :=
  ⟨⟨loaded .A [0x42000000] (bench 1), _, (bench_inv 1 bench_fifos.2.1 .A _).1, rfl, rfl⟩,
    ⟨loaded .B [0x12000000] (bench 1), _, (bench_inv 1 bench_fifos.2.1 .B _).1, rfl, rfl, fun _ _ _ h => by
      have : decode 1 [0x12000000] = .ok (.fpull 0 0, []) := by decide
      rw [show decode (loaded .B [0x12000000] (bench 1)).nch (loaded .B [0x12000000] (bench 1)).ports.b.stream =
        decode 1 [0x12000000] from rfl, this] at h
      simp at h⟩,
    ⟨loaded .H [0x50000000, 7] (bench 1), _, (bench_inv 1 bench_fifos.2.1 .H _).1, rfl, rfl⟩⟩

theorem witness_RfeedResult :
    (on .B (bench 1)).cur = .B ∧ (0 : BitVec 4).toNat < (on .B (bench 1)).nch ∧ (holding 1).sf.prepared = true ∧
      (holding 1).ord = some .o11 ∧ (holding 1).sf.shape ≤ Order.o11.size ∧ (holding 1).sf.rd < (holding 1).sf.wr ∧
      (on .B (bench 1)).turn.split = false ∧ (holding 0).sf.wr ≤ (holding 0).sf.rd ∧
      (holding 1).sf.slots[(holding 1).sf.rd % (holding 1).sf.cap]? = some [0x3F800000] := by decide

/-- An empty block and one as long as the window. -/
theorem witness_ShiftInLaw :
    ([] : List Word).length ≤ [1#32, 2#32].length ∧ [3#32, 4#32].length ≤ [1#32, 2#32].length := by decide

/-- A channel whose sample FIFO holds two blocks as long as the window of order 11. -/
def longBlocks : Channel :=
  { Channel.afterReset .binary32 with
    sf := fifo 2048 2 0 [List.replicate 2048 0x3F800000, List.replicate 2048 0x40000000] 0 }

/-- Two blocks of one sample, and two whose samples are more than the window holds. -/
theorem witness_WindowAfterFeeds :
    (on .B (bench 2)).cur = .B ∧ (on .B (bench 2)).turn.split = false ∧ (0 : BitVec 4).toNat < (on .B (bench 2)).nch ∧
      Sys2Proof.Machine.orderOf 11 = some .o11 ∧ (holding 2).sf.prepared = true ∧ (holding 2).sf.Ok 262143 ∧
      (holding 2).sf.shape = 1 ∧ 1 ≤ Order.o11.size ∧ (∀ b ∈ (holding 2).sf.queued [], b.length = 1) ∧
      2 ≤ (holding 2).sf.readable ∧
      longBlocks.sf.prepared = true ∧ longBlocks.sf.Ok 262143 ∧ longBlocks.sf.shape = 2048 ∧
      2048 ≤ Order.o11.size ∧ (∀ b ∈ longBlocks.sf.queued [], b.length = 2048) ∧ 2 ≤ longBlocks.sf.readable ∧
      Order.o11.size < 2 * 2048 :=
  ⟨rfl, rfl, by decide, rfl, rfl, bench_fifos.2.2.1, rfl, by decide, by decide, by decide, rfl,
    by simp [Fifo.Ok, longBlocks, fifo], rfl, by decide,
    by simp [Fifo.queued, Fifo.readable, longBlocks, fifo, List.range_succ], by decide, by decide⟩

theorem witness_ChordResult :
    (on .B (bench 1)).cur = .B ∧ (0 : BitVec 4).toNat < (on .B (bench 1)).nch ∧
      (11 : BitVec 18).toNat = 11 ∧ (12 : BitVec 18).toNat = 12 ∧ (13 : BitVec 18).toNat = 13 := by decide

theorem witness_SpecResult :
    (on .B (bench 1)).cur = .B ∧ (0 : BitVec 4).toNat < (on .B (bench 1)).nch ∧ (holding 1).ord = some .o11 ∧
      (holding 1).mf.prepared = true ∧ Numeric.finite (on .B (bench 1)).cfg.num 0xC2400000 = true ∧
      (holding 1).mf.wr - (holding 1).mf.rd < (holding 1).mf.cap ∧
      (holding 2).mf.cap ≤ (holding 2).mf.wr - (holding 2).mf.rd := by decide +kernel

theorem witness_SpectrumSteps : Numeric.finite Config.default.num 0xC2400000 = true := by decide +kernel

/-- A finite floor, a magnitude whose decibel value lies above it, and one each of those at the floor. -/
theorem witness_DecibelFloor :
    let A := Numeric.arith .binary32
    (NumFormat.binary32.format.value 0xC2400000).isFinite = true ∧
      (A.isNan 0x3F000000 = false ∧ A.lt (A.ofRat 0) 0x3F000000 = true ∧
        A.finite (A.mul (A.ofRat 20) (A.log10 0x3F000000)) = true ∧
        A.lt (A.mul (A.ofRat 20) (A.log10 0x3F000000)) 0xC2400000 = false) ∧
      A.isNan 0x7FC00000 = true ∧ A.lt (A.ofRat 0) 0 = false ∧
      A.finite (A.mul (A.ofRat 20) (A.log10 0x7F800000)) = false ∧
      A.lt (A.mul (A.ofRat 20) (A.log10 0x3A83126F)) 0xC2400000 = true := by decide +kernel

theorem witness_WindowShape : (2 : Nat) ≤ 2 ∧ (1 : Nat) < 2 := by decide

/-- Finite samples that are not all zero, samples that are, and a sample that is not finite. -/
theorem witness_TransformSums :
    (0 : Nat) < 1 ∧
      ([0x3F800000#32, 0#32].map (Numeric.value .binary32) = [1, 0].map .fin ∧ ∃ q ∈ [(1 : ℚ), 0], q ≠ 0) ∧
      ([0x80000000#32, 0#32].map (Numeric.value .binary32) = [0, 0].map .fin ∧ ∀ q ∈ [(0 : ℚ), 0], q = 0) ∧
      ∃ x ∈ [0#32, 0x7F800000#32], Numeric.finite .binary32 x = false := by
  refine ⟨by decide, ⟨by decide +kernel, 1, by simp, by norm_num⟩, ⟨by decide +kernel, by simp⟩, 0x7F800000#32,
    by simp, by decide +kernel⟩

theorem witness_CgenResult :
    (on .B (bench 1)).cur = .B ∧ (0 : BitVec 4).toNat < (on .B (bench 1)).nch ∧ (holding 1).ord = some .o11 ∧
      (holding 1).mf.prepared = true ∧ (holding 1).cf.prepared = true ∧
      Numeric.finite (on .B (bench 1)).cfg.num 0xC2400000 = true ∧ (holding 1).mf.rd < (holding 1).mf.wr ∧
      (holding 1).mf.slots[(holding 1).mf.rd % (holding 1).mf.cap]? = some (List.replicate 1024 0xC1A00000) ∧
      (holding 1).cf.wr - (holding 1).cf.rd < (holding 1).cf.cap ∧
      (holding 2).cf.cap ≤ (holding 2).cf.wr - (holding 2).cf.rd ∧ (holding 2).mf.rd < (holding 2).mf.wr ∧
      (holding 0).mf.wr ≤ (holding 0).mf.rd := by decide +kernel

theorem witness_CgetRdcrvResult :
    (on .B (bench 2)).cur = .B ∧ (0 : BitVec 4).toNat < (on .B (bench 2)).nch ∧ (holding 2).cf.prepared = true ∧
      (holding 2).cf.rd ≤ (holding 2).cf.wr ∧ (holding 0).cf.rd ≤ (holding 0).cf.wr := by decide

theorem witness_PolylinePoints :
    (1 : Nat) ≤ 1 ∧ (0 : ℝ) < 20 ∧ (0 : ℝ) < 1000 ∧ (0 : Nat) < 1 ∧ (0 : ℝ) < 48000 / 2048 ∧ (-48 : ℝ) ≠ 0 := by
  norm_num

/-- A flat spectrum of four bins with a point; a `NaN` value; a floor of 0. -/
theorem witness_SkippedPoints :
    (4 / 2 ≤ [0xC1A00000#32, 0xC1A00000#32].length ∧ (∀ x ∈ [0xC1A00000#32, 0xC1A00000#32], x = 0xC1A00000) ∧
      ∃ p, p ∈ genPath (Numeric.arith .binary32) [0xC1A00000, 0xC1A00000] 4 0 0x43960000 0x42C80000 0x41BB8000
        0xC2400000 1) ∧
      Numeric.isNan .binary32 0x7FC00000 = true ∧ Numeric.value .binary32 0x80000000 = .fin 0 := by
  refine ⟨⟨by decide, by simp, ?_⟩, by decide +kernel, by decide +kernel⟩
  have h : (pointOf (Numeric.arith .binary32) 1 0xC1A00000 0 0x43960000 0x42C80000 0x41BB8000
      0xC2400000).isSome = true := by decide +kernel
  obtain ⟨p, hp⟩ := Option.isSome_iff_exists.mp h
  exact ⟨p, by simpa [genPath, genPathFrom] using Or.inr hp⟩

/-- The scenario's settings are in the domain of R202 at 48000, and outside it at 0 and at 40000, where the
high-cut frequency is half the sample rate. -/
theorem witness_CcoefResult :
    ({ on .B State.reset with settings := some t6 }).cur = .B ∧
      validSettings .binary32 t6 0x473B8000 = true ∧ validSettings .binary32 t6 0 = false ∧
      validSettings .binary32 t6 0x471C4000 = false := by decide +kernel

/-- Slope orders 1 and 4. -/
theorem witness_DesignStages :
    (1 ≤ t6.lowCutSlopeOrder.toNat ∧ t6.lowCutSlopeOrder.toNat ≤ 4) ∧
      1 ≤ (4 : BitVec 3).toNat ∧ (4 : BitVec 3).toNat ≤ 4 ∧
      (design (Numeric.arith .binary32) t6 0x473B8000).stage.lc0.byp = false ∧
      (design (Numeric.arith .binary32) t6 0x473B8000).stage.lc1.byp = true ∧
      (design (Numeric.arith .binary32) t6 0x473B8000).stage.hc0.byp = false ∧
      (design (Numeric.arith .binary32) t6 0x473B8000).stage.hc3.byp = true := by decide +kernel

theorem witness_ApplyRdcoefResult :
    ({ on .B State.reset with newc := some openLc }).cur = .B ∧ [false, true][0]? = some false := by decide

theorem witness_ProcResult : (on .A State.reset).cur = .A ∧ (on .A State.reset).turn.split = false := by decide

/-- Every group and stage bypassed, and a chain whose low-cut group and peak stage run. -/
theorem witness_BypassIdentity :
    (openLc.gbypLC = false ∧ twice.gbypPK = false ∧ twice.stage.pk.byp = false) ∧
      (∀ (z : StageState Word) (v : Word),
        runStage (Numeric.arith .binary32) openLc.gbypLC openLc.stage.lc0 z v = (v, z)) ∧
      (CoeffSet.ident .binary32).gbypLC = true ∧ (CoeffSet.ident .binary32).gbypPK = true ∧
      (CoeffSet.ident .binary32).gbypHC = true ∧ (CoeffSet.ident .binary32).stage.hc3.byp = true :=
  ⟨⟨rfl, rfl, rfl⟩, fun _ _ => rfl, rfl, rfl, rfl, rfl⟩

theorem witness_PeakDesign :
    (0 : ℝ) < 48000 ∧ (0 : ℝ) < 1000 ∧ 2 * (1000 : ℝ) < 48000 ∧ (0 : ℝ) < 1 := by norm_num

theorem witness_CutDesign :
    (1 ≤ 4 ∧ 3 < 4) ∧ (0 : ℝ) < 48000 ∧ (0 : ℝ) < 20000 ∧ 2 * (20000 : ℝ) < 48000 ∧ (0 : ℝ) < 1 := by norm_num

theorem witness_CoefficientsFixedDuringProc :
    ∃ s t : State, s.FifoInv ∧ s.ports.a.busy = some (.procRun 1 [1]) ∧ s.sched = [.turn .B false] ∧
      step s = .next t :=
  ⟨{ pushing (.procRun 1 [1]) with sched := [.turn .B false] }, _,
    ⟨by simpa [pushing, on, bench, one, State.resetFor, Config.default] using bench_fifos.1,
      by simp [pushing, on, bench, one, State.MicroOkA],
      by simp [pushing, on, bench, one, State.resetFor, PortState.idle], rfl⟩, rfl, rfl, rfl⟩

/-- The bounds of STRIDE and BLKLEN, and the floor. -/
theorem witness_WrrResult :
    (on .H State.reset).cur = .H ∧ (on .B State.reset).cur = .B ∧
      Numeric.finite (on .B State.reset).cfg.num 0xC2400000 = true ∧
      1 ≤ ((1 : Word).extractLsb' 0 13).toNat ∧ ((4096 : Word).extractLsb' 0 13).toNat ≤ 4096 ∧
      1 ≤ ((1 : Word).extractLsb' 0 14).toNat ∧ ((8192 : Word).extractLsb' 0 14).toNat ≤ 8192 := by decide +kernel

theorem witness_RdrResult :
    (regOf 2 0x31 = some (.ordr 1) ∧ (on .B State.reset).readReg (.ordr 1) = some 0) ∧
      (∃ t, exec (.wrr 0x05 9) (on .H State.reset) = .next t) ∧
      causeOf (.wrr 0x05 9) (on .H State.reset) = none ∧ 0 < (on .B (bench 0)).nch ∧
      ((on .B (bench 0)).chan 0).ord = some .o11 ∧ 1 < (on .B State.reset).nch ∧
      ((on .B State.reset).chan 1).ord = none :=
  ⟨by decide, ⟨_, rfl⟩, by decide, by decide, rfl, by decide, rfl⟩

/-- A state in which a `TICK` recomputes. -/
def ticking (split : Bool) : State :=
  { State.reset with params := params, pchg := true, turn := { port := .B, split := split } }

theorem witness_SnapTclrTickResult :
    (ticking false).cur = .B ∧ (ticking false).params = params ∧ (ticking false).pchg = true ∧
      (ticking false).turn.split = false ∧ validSettings .binary32 t6 0x473B8000 = true ∧
      (on .B State.reset).pchg = false := by decide +kernel

theorem witness_PchgRule :
    (∃ t, exec (.wrr 0x08 1) (on .H State.reset) = .next t) ∧ causeOf (.wrr 0x08 1) (on .H State.reset) = none ∧
      (∃ t, exec (.wrr 0x08 1) (on .A State.reset) = .next t) ∧
      causeOf (.wrr 0x08 1) (on .A State.reset) = some .wrongPort :=
  ⟨⟨_, rfl⟩, by decide, ⟨_, rfl⟩, by decide⟩

theorem witness_NoLostUpdate :
    ∃ s1 s2 : State, (ticking true).cur = .B ∧ (ticking true).turn.split = true ∧ (ticking true).pchg = true ∧
      causeOf (.tick 0x473B8000) (ticking true) = none ∧ (0x01 : BitVec 8).toNat ≤ 8 ∧
      exec (.tick 0x473B8000) (ticking true) = .next s1 ∧
      exec (.wrr 0x01 0x40400000) { s1 with turn := { port := .H, split := false } } = .next s2 :=
  ⟨_, _, rfl, rfl, rfl, by decide, by decide, rfl, rfl⟩

theorem witness_PollResult :
    (on .B (bench 1)).cur = .B ∧ (on .B (bench 1)).turn.split = false ∧
      (0 : BitVec 4).toNat < (on .B (bench 1)).nch ∧ (holding 1).ord = some .o11 ∧ (holding 1).sf.prepared = true ∧
      (holding 1).mf.prepared = true ∧ (holding 1).cf.prepared = true ∧ (holding 1).sf.shape ≤ Order.o11.size ∧
      (on .B (bench 1)).FifoInv ∧ (on .B (bench 1)).ConfigRegsOk :=
  ⟨rfl, rfl, by decide, rfl, rfl, rfl, rfl, by decide, (bench_inv 1 bench_fifos.2.1 .B []).2, bench_regs.1⟩

theorem witness_RegisterInvariant :
    ∃ s t : State, s.ConfigRegsOk ∧ s.err.Ok ∧
      Numeric.finite s.cfg.num (Numeric.ofRat s.cfg.num (-48)) = true ∧ step s = .next t ∧ s.ParamsOk :=
  ⟨{ on .B (bench 1) with sched := [.turn .B false] }, _, bench_regs.1, bench_regs.2, by decide +kernel, rfl,
    ⟨by decide, by decide, by decide, by decide, by norm_num [on, bench, one, State.resetFor, Config.default]⟩⟩

theorem witness_QueryFrame :
    (∃ t, exec (.fovf 0 0) (on .B (bench 1)) = .next t) ∧ causeOf (.fovf 0 0) (on .B (bench 1)) = none ∧
      (∃ t, exec (.favail 0 1) (on .A (bench 1)) = .next t) ∧
      causeOf (.favail 0 1) (on .A (bench 1)) = some .wrongPort :=
  ⟨⟨_, rfl⟩, by decide, ⟨_, rfl⟩, by decide⟩

/-- A result that is a next state. -/
theorem next_of_after {α : Type} {f : State → α} {r : Result} {a : α} (h : after f r = some a) : ∃ t, r = .next t := by
  cases r with
  | next t => exact ⟨t, rfl⟩
  | fault f => cases h
  | refused f => cases h

/-- Each command of the frame; a push of each kind, one into a full FIFO, one refused, one from an empty spectrum
FIFO. -/
theorem witness_ChannelFrame :
    (∃ t, exec (.fprep 0 0 4) (on .B (bench 1)) = .next t) ∧ (∃ t, exec (.fprep 0 1 4) (on .B (bench 1)) = .next t) ∧
      (∃ t, exec (.fprep 0 2 4) (on .B (bench 1)) = .next t) ∧
      (∃ t, exec (.fpush 0 0 [1]) (on .A (bench 1)) = .next t) ∧
      (∃ t, exec (.fpush 0 1 []) (on .B (bench 1)) = .next t) ∧
      (∃ t, exec (.fpush 0 2 [0]) (on .B (bench 2)) = .next t) ∧
      (holding 2).cf.cap ≤ (holding 2).cf.wr - (holding 2).cf.rd ∧
      (∃ t, exec (.fpull 0 0) (on .B (bench 1)) = .next t) ∧ (∃ t, exec (.fpull 0 1) (on .B (bench 1)) = .next t) ∧
      (∃ t, exec (.fpull 0 2) (on .B (bench 1)) = .next t) ∧ (∃ t, exec (.rfeed 0) (on .B (bench 1)) = .next t) ∧
      (∃ t, exec (.chord 0 12) (on .B (bench 1)) = .next t) ∧
      (∃ t, exec (.spec 0 0xC2400000) (on .B (bench 1)) = .next t) ∧
      (∃ t, exec (.cgen 0 0 0 0 0 0 0xC2400000) (on .B (bench 0)) = .next t) ∧
      (holding 0).mf.wr ≤ (holding 0).mf.rd ∧ (∃ t, exec (.cget 0) (on .B (bench 1)) = .next t) ∧
      (∃ t, exec (.poll 0 0x473B8000 0 0 0 0) (on .B (bench 0)) = .next t) ∧
      causeOf (.spec 0 0xC2400000) (on .A (bench 1)) ≠ none :=
  ⟨⟨_, rfl⟩, ⟨_, rfl⟩, ⟨_, rfl⟩, ⟨_, rfl⟩, ⟨_, rfl⟩, ⟨_, rfl⟩, by decide, ⟨_, rfl⟩, ⟨_, rfl⟩, ⟨_, rfl⟩, ⟨_, rfl⟩,
    ⟨_, rfl⟩, next_of_after (f := fun _ => true) (a := true) (by decide +kernel),
    next_of_after (f := fun _ => true) (a := true) (by decide +kernel), by decide, ⟨_, rfl⟩,
    next_of_after (f := fun _ => true) (a := true) (by decide +kernel), by decide⟩

theorem witness_FilterAndRegisterFrame :
    (∃ t, exec (.ccoef 0) (on .B { State.reset with settings := some t6 }) = .next t) ∧
      (∃ t, exec .apply (on .B State.reset) = .next t) ∧ (∃ t, exec (.proc 0 []) (on .A State.reset) = .next t) ∧
      (∃ t, exec (.wrr 0x11 1) (on .B State.reset) = .next t) ∧ regOf 2 0x12 = some .blkLen ∧
      (∃ t, exec .snap (ticking false) = .next t) ∧ (∃ t, exec .tclr (ticking false) = .next t) ∧
      ∃ t, exec (.tick 0) (ticking true) = .next t :=
  ⟨⟨_, rfl⟩, ⟨_, rfl⟩, ⟨_, rfl⟩, ⟨_, rfl⟩, rfl, ⟨_, rfl⟩, ⟨_, rfl⟩, ⟨_, rfl⟩⟩

theorem witness_SuppliedFormat :
    suppliedState.nch = 1 ∧ (on .A suppliedState).cur = .A ∧ (on .A suppliedState).turn.split = false := by decide

end Sys2Proof.Tests
end

/-! # The invariants at reset, and the registers along every step (R7, R25, R41, R44) -/

namespace Sys2Proof.Machine

/-! ## The state after reset (R44) -/

@[simp] theorem resetFor_nch (cfg : Config) (nch : Nat) : (State.resetFor cfg nch).nch = nch := by
  simp [State.nch, State.resetFor]

/-- The floor after reset is finite: -48 in binary32, and elsewhere what the format makes of -48 (R44). -/
theorem resetFloor_finite {F : NumFormat}
    (h : F = .binary32 ∨ Numeric.finite F (Numeric.ofRat F (-48)) = true) : Numeric.finite F (resetFloor F) = true := by
  cases F with
  | binary32 => rfl
  | other id t => exact h.resolve_left nofun

theorem eq_afterReset_of_mem {cfg : Config} {nch : Nat} {c : Channel} (h : c ∈ (State.resetFor cfg nch).chans) :
    c = Channel.afterReset cfg.num :=
  List.eq_of_mem_replicate h

theorem Channel.afterReset_fifosOk (F : NumFormat) (cmax : Nat) : (Channel.afterReset F).FifosOk cmax :=
  ⟨Fifo.unprepared_ok cmax, Fifo.unprepared_ok cmax, Fifo.unprepared_ok cmax⟩

theorem Channel.afterReset_shapesOk (F : NumFormat) : (Channel.afterReset F).ShapesOk := by
  simp [Channel.ShapesOk, Channel.WindowOk, Channel.size, Channel.afterReset, Fifo.unprepared]

theorem Channel.afterReset_fifo_prepared (F : NumFormat) (k : FifoKind) :
    ((Channel.afterReset F).fifo k).prepared = false := by
  cases k <;> rfl

theorem resetFor_fifoInv (cfg : Config) (nch : Nat) : (State.resetFor cfg nch).FifoInv := by
  refine ⟨fun c hc => ?_, fun m h => ?_, fun m h => ?_, rfl⟩
  · rw [eq_afterReset_of_mem hc]
    exact Channel.afterReset_fifosOk _ _
  · cases h
  · cases h

theorem resetFor_shapeInv (cfg : Config) (nch : Nat) : (State.resetFor cfg nch).ShapeInv := by
  refine ⟨fun c hc => ?_, fun m h => ?_, fun m h => ?_⟩
  · rw [eq_afterReset_of_mem hc]
    exact Channel.afterReset_shapesOk _
  · cases h
  · cases h

theorem resetFor_cursorsFit (cfg : Config) (nch : Nat) : (State.resetFor cfg nch).CursorsFit := by
  intro c hc k hp
  rw [eq_afterReset_of_mem hc, Channel.afterReset_fifo_prepared] at hp
  cases hp

theorem resetFor_errOk (cfg : Config) (nch : Nat) : (State.resetFor cfg nch).err.Ok := by
  simp [Err.Ok, State.resetFor]

theorem resetFor_configRegsOk (cfg : Config) (nch : Nat)
    (h : cfg.num = .binary32 ∨ Numeric.finite cfg.num (Numeric.ofRat cfg.num (-48)) = true) :
    (State.resetFor cfg nch).ConfigRegsOk :=
  ⟨resetFloor_finite h, (by decide : 1 ≤ (2 : BitVec 13).toNat), (by decide : (2 : BitVec 13).toNat ≤ 4096),
    fun _ hn => nomatch hn⟩

theorem resetFor_paramsOk {cfg : Config} {nch : Nat} (h : cfg.Ok nch) : (State.resetFor cfg nch).ParamsOk := by
  rw [State.ParamsOk, resetFor_nch]
  exact h

theorem default_ok : Config.default.Ok Config.defaultNch :=
  ⟨by decide, by decide, by decide, by decide, by norm_num [Config.default]⟩

/-- Settles O22: each invariant of the state after reset is a lemma of its own. -/
theorem invariantsAtReset : Obligations.InvariantsAtReset := by
  refine ⟨fun cfg nch h => ?_, resetFor_paramsOk default_ok⟩
  exact ⟨resetFor_fifoInv _ _, resetFor_shapeInv _ _, resetFor_errOk _ _, resetFor_paramsOk h,
    resetFor_cursorsFit _ _, resetFor_configRegsOk _ _⟩

/-! ## What leaves the configuration registers, `ERR` and the parameters alone -/

/-- The configuration registers, `ERR` and the parameters of R7. -/
def State.regs (s : State) : Config × Nat × Word × BitVec 13 × Option (BitVec 14) × Err :=
  (s.cfg, s.nch, s.floorDb, s.stride, s.blkLen, s.err)

/-- The configuration registers are legal, `ERR` is well formed, and the parameters are the given ones. -/
def State.RegsInv (cfg : Config) (nch : Nat) (s : State) : Prop :=
  s.ConfigRegsOk ∧ s.err.Ok ∧ s.cfg = cfg ∧ s.nch = nch

theorem State.RegsInv.of_regs_eq {cfg : Config} {nch : Nat} {s t : State} (hs : s.RegsInv cfg nch)
    (h : t.regs = s.regs) : t.RegsInv cfg nch := by
  simp only [State.regs, Prod.mk.injEq] at h
  obtain ⟨hcfg, hnch, hfloor, hstride, hblk, herr⟩ := h
  simpa only [State.RegsInv, State.ConfigRegsOk, hcfg, hnch, hfloor, hstride, hblk, herr] using hs

/-- Every channel is processed once, so their number stays. -/
theorem processChannels_length (A : Arith Word) (c : CoeffSet Word) (n : Nat) (chs : List Channel) (xs : List Word) :
    (processChannels A c n chs xs).2.length = chs.length := by
  induction chs generalizing xs with
  | nil => rfl
  | cons ch chs ih => simp [processChannels, ih]

namespace State

@[simp] theorem regs_modChan (s : State) (c : Nat) (f : Channel → Channel) : (s.modChan c f).regs = s.regs := by
  simp [regs]

@[simp] theorem regs_finish (s : State) (r : Response) : (s.finish r).regs = s.regs := rfl

@[simp] theorem regs_setBusy (s : State) (m : Micro) : (s.setBusy m).regs = s.regs := rfl

@[simp] theorem regs_setStream (s : State) (ws : List Word) : (s.setStream ws).regs = s.regs := rfl

@[simp] theorem regs_clearPchg (s : State) : s.clearPchg.regs = s.regs := rfl

@[simp] theorem regs_setPchg (s : State) : s.setPchg.regs = s.regs := rfl

@[simp] theorem regs_postCoeffs (s : State) : s.postCoeffs.regs = s.regs := rfl

@[simp] theorem regs_takeCoeffs (s : State) : s.takeCoeffs.regs = s.regs := by simp [regs, nch]

@[simp] theorem regs_latchSettings (s : State) : s.latchSettings.regs = s.regs := by simp [regs, nch]

@[simp] theorem regs_tickDesign (s : State) (fs : Word) : (s.tickDesign fs).regs = s.regs := by simp [regs, nch]

@[simp] theorem regs_tickPost (s : State) : s.tickPost.regs = s.regs := rfl

@[simp] theorem regs_runProc (s : State) (n : Nat) (xs : List Word) : (s.runProc n xs).regs = s.regs := by
  simp [regs, runProc, nch, processChannels_length]

@[simp] theorem regs_beginPush (s : State) (c : Nat) (x : Item) : (s.beginPush c x).regs = s.regs := by
  unfold beginPush
  split_ifs <;> simp [pushCopy, pushPublish]

@[simp] theorem regs_beginPull (s : State) (c : Nat) (k : FifoKind) : (s.beginPull c k).regs = s.regs := by
  unfold beginPull
  split_ifs <;> simp [pullFree]

@[simp] theorem regs_beginFeed (s : State) (c : Nat) : (s.beginFeed c).regs = s.regs := by
  unfold beginFeed
  split_ifs <;> simp [feedFree]

@[simp] theorem regs_pollFinish (s : State) (c : Nat) : (s.pollFinish c).regs = s.regs := by simp [pollFinish]

@[simp] theorem regs_pollRun (s : State) (a : PollArgs) (n : Nat) : (s.pollRun a n).regs = s.regs := by
  simp [pollRun]

theorem regs_microStep (s : State) (m : Micro) : (s.microStep m).regs = s.regs := by
  cases m with
  | pollFeed a n => cases n <;> simp [microStep]
  | pollCurve a n => cases n <;> simp [microStep]
  | _ => simp [microStep, pushCopy, pushPublish, pullFree, feedFree]

end State

/-! ## The one command that writes a configuration register (R242) -/

/-- A value that passes the register's check leaves the configuration registers legal (R25). -/
theorem storeReg_configRegsOk {s : State} {r : Reg} {v : Word} (hb : s.badRegValue r v = false)
    (h : s.ConfigRegsOk) : (s.storeReg r v).ConfigRegsOk := by
  obtain ⟨hf, hs1, hs2, hl⟩ := h
  cases r with
  | floorDb => exact ⟨by simpa [State.badRegValue, State.storeReg] using hb, hs1, hs2, hl⟩
  | stride =>
    simp only [State.badRegValue, decide_eq_false_iff_not, not_or, not_lt] at hb
    refine ⟨hf, Nat.pos_of_ne_zero fun h0 => hb.1 (BitVec.eq_of_toNat_eq h0), hb.2, hl⟩
  | blkLen =>
    simp only [State.badRegValue, decide_eq_false_iff_not, not_or, not_lt] at hb
    refine ⟨hf, hs1, hs2, fun n hn => ?_⟩
    cases hn
    exact ⟨Nat.pos_of_ne_zero fun h0 => hb.1 (BitVec.eq_of_toNat_eq h0), hb.2⟩
  | _ => exact ⟨hf, hs1, hs2, hl⟩

theorem writeReg_regsInv {cfg : Config} {nch : Nat} {s : State} {r : Reg} {v : Word}
    (hb : s.badRegValue r v = false) (h : s.RegsInv cfg nch) : (s.writeReg r v).RegsInv cfg nch := by
  have hstore : (s.storeReg r v).RegsInv cfg nch := by
    obtain ⟨hregs, herr, hcfg, hnch⟩ := h
    exact ⟨storeReg_configRegsOk hb hregs, by simpa using herr, by simpa using hcfg, by simpa [State.nch] using hnch⟩
  unfold State.writeReg
  split
  · exact hstore.of_regs_eq (State.regs_setPchg _)
  · exact hstore

/-- The effect of a command that is no `WRR` is made of operations that leave the registers alone. -/
theorem effect_regs {i : Instr} {s t : State} (hi : ∀ r v, i ≠ .wrr r v) (h : effect i s = .next t) :
    t.regs = s.regs := by
  cases i with
  | wrr r v => exact absurd rfl (hi r v)
  | _ =>
    simp only [effect] at h
    repeat' split at h
    all_goals cases h <;> simp

theorem effect_regsInv {cfg : Config} {nch : Nat} {i : Instr} {s t : State} (hc : causeOf i s = none)
    (h : effect i s = .next t) (hs : s.RegsInv cfg nch) : t.RegsInv cfg nch := by
  by_cases hi : ∃ r v, i = .wrr r v
  · obtain ⟨r, v, rfl⟩ := hi
    obtain ⟨-, -, -, -, hop⟩ := (causeOf_eq_none _ _).1 hc
    cases hr : regOf s.nch r with
    | none =>
      simp only [effect, hr, Host.Outcome.next.injEq] at h
      rwa [← h]
    | some reg =>
      simp only [effect, hr, Host.Outcome.next.injEq] at h
      have hb : s.badRegValue reg v = false := by simpa [operandsOk, hr] using hop
      rw [← h]
      exact (writeReg_regsInv hb hs).of_regs_eq (State.regs_finish _ _)
  · exact hs.of_regs_eq (effect_regs (fun r v e => hi ⟨r, v, e⟩) h)

/-! ## Steps -/

/-- A refusal records a cause of R271 and the port, or leaves the record of the first one (R275). -/
theorem raise_regsInv {cfg : Config} {nch : Nat} {s : State} (c : Cause) (w : Word) (h : s.RegsInv cfg nch) :
    (s.raise c w).RegsInv cfg nch := by
  obtain ⟨hregs, herr, hcfg, hnch⟩ := h
  refine ⟨by simpa [State.ConfigRegsOk] using hregs, ?_, by simpa using hcfg, by simpa [State.nch] using hnch⟩
  cases hv : s.err.valid with
  | true => rwa [State.raise_err_of_valid _ _ _ hv]
  | false =>
    have hcause : 1 ≤ c.code.toNat ∧ c.code.toNat ≤ 5 := by cases c <;> decide
    have hport : s.cur.code.toNat ≤ 2 := by cases s.cur <;> decide
    rw [State.raise_err_of_clear _ _ _ hv]
    exact ⟨hcause.1, hcause.2, hport⟩

theorem turnTo_regsInv {cfg : Config} {nch : Nat} {s u t : State} {p : Port} (ht : TurnTo s p u t)
    (h : u.RegsInv cfg nch) : t.RegsInv cfg nch := by
  have hstream : ∀ ws, (u.setStream ws).RegsInv cfg nch := fun ws => h.of_regs_eq (State.regs_setStream u ws)
  cases ht with
  | micro m hb => exact h.of_regs_eq (State.regs_microStep u m)
  | stutter hb => exact h
  | refuse hb ws c w => exact raise_regsInv c w (hstream ws)
  | run hb i rest t hd hc he => exact effect_regsInv hc he (hstream rest)

/-- A reset gives the reset values, words that arrive touch no register, and a turn keeps the invariant. -/
theorem step_regsInv {cfg : Config} {nch : Nat} {s t : State} (hstep : step s = .next t)
    (hf : Numeric.finite s.cfg.num (Numeric.ofRat s.cfg.num (-48)) = true) (h : s.RegsInv cfg nch) :
    t.RegsInv cfg nch := by
  rcases step_cases s t hstep with ⟨es, -, rfl⟩ | ⟨p, ws, es, -, rfl⟩ | ⟨p, sp, es, -, ht⟩
  · obtain ⟨-, -, hcfg, hnch⟩ := h
    exact ⟨resetFor_configRegsOk s.cfg s.nch (.inr hf), resetFor_errOk s.cfg s.nch, hcfg,
      (resetFor_nch s.cfg s.nch).trans hnch⟩
  · exact h.of_regs_eq rfl
  · exact turnTo_regsInv ht (h.of_regs_eq rfl)

/-- Settles O55: the invariant that every step keeps, at the parameters of the state before it. -/
theorem registerInvariant : Obligations.RegisterInvariant := by
  intro s t hregs herr hf hstep
  obtain ⟨hregs', herr', hcfg, hnch⟩ := step_regsInv hstep hf ⟨hregs, herr, rfl, rfl⟩
  refine ⟨hregs', herr', hcfg, hnch, fun hp => ?_⟩
  rw [State.ParamsOk, hcfg, hnch]
  exact hp

end Sys2Proof.Machine

/-! # Number formats supplied as data (R7, R12, R214)

`PROC` uses a format through the value of a word and the rounding of an exact value, each on finitely many operands, so
a finite table of them stands for the format. -/

namespace Sys2Proof

namespace NumberFormat

/-- `G` stores the words `ws` and rounds the exact values `es` as `F` does. -/
def AgreeOn (F G : NumberFormat ℚ Word) (ws : List Word) (es : List Ext) : Prop :=
  (∀ w ∈ ws, G.value w = F.value w) ∧ ∀ e ∈ es, G.rnd e = F.rnd e

/-- At `F`, a function of a format depends on finitely many words and exact values: every format that agrees with `F`
on them has the same result. -/
def DependsFinitely {α : Type} (F : NumberFormat ℚ Word) (f : NumberFormat ℚ Word → α) : Prop :=
  ∃ ws es, ∀ G, AgreeOn F G ws es → f G = f F

variable {α β : Type} {F : NumberFormat ℚ Word}

theorem dependsFinitely_const (a : α) : DependsFinitely F fun _ => a := ⟨[], [], fun _ _ => rfl⟩

theorem dependsFinitely_value (w : Word) : DependsFinitely F fun G => G.value w :=
  ⟨[w], [], fun _ h => h.1 w List.mem_cons_self⟩

theorem dependsFinitely_rnd (e : Ext) : DependsFinitely F fun G => G.rnd e :=
  ⟨[], [e], fun _ h => h.2 e List.mem_cons_self⟩

/-- A computation that goes on from a result depends finitely on the format when the result and, from the result at `F`,
the rest do. -/
theorem DependsFinitely.bind {f : NumberFormat ℚ Word → α} {g : α → NumberFormat ℚ Word → β}
    (hf : DependsFinitely F f) (hg : DependsFinitely F (g (f F))) : DependsFinitely F fun G => g (f G) G := by
  obtain ⟨ws, es, hf⟩ := hf
  obtain ⟨ws', es', hg⟩ := hg
  refine ⟨ws ++ ws', es ++ es', fun G hG => ?_⟩
  have hGf : AgreeOn F G ws es :=
    ⟨fun w h => hG.1 w (List.mem_append_left _ h), fun e h => hG.2 e (List.mem_append_left _ h)⟩
  have hGg : AgreeOn F G ws' es' :=
    ⟨fun w h => hG.1 w (List.mem_append_right _ h), fun e h => hG.2 e (List.mem_append_right _ h)⟩
  calc g (f G) G = g (f F) G := by rw [hf G hGf]
    _ = g (f F) F := hg G hGg

theorem DependsFinitely.map {f : NumberFormat ℚ Word → α} (g : α → β) (hf : DependsFinitely F f) :
    DependsFinitely F fun G => g (f G) :=
  hf.bind (g := fun a _ => g a) (dependsFinitely_const _)

theorem DependsFinitely.map₂ {γ : Type} {f : NumberFormat ℚ Word → α} {g : NumberFormat ℚ Word → β} (h : α → β → γ)
    (hf : DependsFinitely F f) (hg : DependsFinitely F g) : DependsFinitely F fun G => h (f G) (g G) :=
  hf.bind (g := fun a G => h a (g G)) (hg.map (h (f F)))

theorem DependsFinitely.pair {f : NumberFormat ℚ Word → α} {g : NumberFormat ℚ Word → β}
    (hf : DependsFinitely F f) (hg : DependsFinitely F g) : DependsFinitely F fun G => (f G, g G) :=
  hf.map₂ Prod.mk hg

/-- A binary primitive: the exact function of two stored values, then one rounding (R12). -/
theorem dependsFinitely_rounded (op : Ext → Ext → Ext) {f g : NumberFormat ℚ Word → Word}
    (hf : DependsFinitely F f) (hg : DependsFinitely F g) :
    DependsFinitely F fun G => G.rnd (op (G.value (f G)) (G.value (g G))) :=
  have hv : ∀ {h : NumberFormat ℚ Word → Word}, DependsFinitely F h → DependsFinitely F fun G => G.value (h G) :=
    fun hh => hh.bind (g := fun w G => G.value w) (dependsFinitely_value _)
  ((hv hf).map₂ op (hv hg)).bind (g := fun e G => G.rnd e) (dependsFinitely_rnd _)

theorem dependsFinitely_add {f g : NumberFormat ℚ Word → Word} (hf : DependsFinitely F f) (hg : DependsFinitely F g) :
    DependsFinitely F fun G => G.arith.add (f G) (g G) := dependsFinitely_rounded Extended.add hf hg

theorem dependsFinitely_sub {f g : NumberFormat ℚ Word → Word} (hf : DependsFinitely F f) (hg : DependsFinitely F g) :
    DependsFinitely F fun G => G.arith.sub (f G) (g G) := dependsFinitely_rounded Extended.sub hf hg

theorem dependsFinitely_mul {f g : NumberFormat ℚ Word → Word} (hf : DependsFinitely F f) (hg : DependsFinitely F g) :
    DependsFinitely F fun G => G.arith.mul (f G) (g G) := dependsFinitely_rounded Extended.mul hf hg

/-! ## A finite table for a format (R12) -/

/-- The table of a format on some words, exact values and points of the real functions. -/
def tableOn (F : NumberFormat ℚ Word) (ws : List Word) (es : List Ext) (rs : List (RealFn × ℚ)) : FormatTable where
  value := ws.map fun w => (w, F.value w)
  rnd := es.map fun e => (e, F.rnd e)
  real := rs.map fun p => (p, F.rndReal p.1 p.2)

theorem agreeOn_tableOn (F : NumberFormat ℚ Word) (id : Nat) (ws : List Word) (es : List Ext)
    (rs : List (RealFn × ℚ)) : AgreeOn F (NumFormat.other id (tableOn F ws es rs)).format ws es :=
  ⟨fun w h => tableAt_map F.value _ ws w h, fun e h => tableAt_map F.rnd _ es e h⟩

theorem rndReal_tableOn (F : NumberFormat ℚ Word) (id : Nat) (ws : List Word) (es : List Ext)
    (rs : List (RealFn × ℚ)) (p : RealFn × ℚ) (h : p ∈ rs) :
    (NumFormat.other id (tableOn F ws es rs)).format.rndReal p.1 p.2 = F.rndReal p.1 p.2 :=
  tableAt_map (fun p : RealFn × ℚ => F.rndReal p.1 p.2) (fun p => Config.otherReal id p.1 p.2) rs p h

/-- What depends finitely on the format is computed as `F` computes it with some supplied table. -/
theorem DependsFinitely.exists_table {f : NumberFormat ℚ Word → α} (h : DependsFinitely F f) (id : Nat) :
    ∃ t, f (NumFormat.other id t).format = f F := by
  obtain ⟨ws, es, h⟩ := h
  exact ⟨tableOn F ws es [], h _ (agreeOn_tableOn F id ws es [])⟩

end NumberFormat

namespace Machine

open NumberFormat

/-! ## The filter chain depends finitely on the format (R216, R217, R214) -/

section

variable {F : NumberFormat ℚ Word}

theorem dependsFinitely_biquad (c : Biquad Word) (s1 s2 x : Word) :
    DependsFinitely F fun G => biquad G.arith c s1 s2 x := by
  have k := fun w => dependsFinitely_const (F := F) (w : Word)
  have hy := dependsFinitely_add (dependsFinitely_mul (k c.b0) (k x)) (k s1)
  have hs1 := dependsFinitely_add
    (dependsFinitely_sub (dependsFinitely_mul (k c.b1) (k x)) (dependsFinitely_mul (k c.a1) hy)) (k s2)
  have hs2 := dependsFinitely_sub (dependsFinitely_mul (k c.b2) (k x)) (dependsFinitely_mul (k c.a2) hy)
  exact hy.pair (hs1.pair hs2)

theorem dependsFinitely_runStage (gbyp : Bool) (st : Stage Word) (z : StageState Word) (v : Word) :
    DependsFinitely F fun G => runStage G.arith gbyp st z v := by
  unfold runStage
  split
  · exact (dependsFinitely_biquad st.co z.s1 z.s2 v).map fun r => (r.1, ({ s1 := r.2.1, s2 := r.2.2 } : StageState Word))
  · exact dependsFinitely_const _

/-- A stage after another one: its input is the output of the stage before it. -/
theorem dependsFinitely_nextStage (gbyp : Bool) (st : Stage Word) (z : StageState Word)
    {f : NumberFormat ℚ Word → Word × StageState Word} (hf : DependsFinitely F f) :
    DependsFinitely F fun G => runStage G.arith gbyp st z (f G).1 :=
  hf.bind (g := fun r G => runStage G.arith gbyp st z r.1) (dependsFinitely_runStage _ _ _ _)

theorem dependsFinitely_cascade (c : CoeffSet Word) (z : Nine (StageState Word)) (v : Word) :
    DependsFinitely F fun G => cascade G.arith c z v := by
  have h0 := dependsFinitely_runStage (F := F) c.gbypLC c.stage.lc0 z.lc0 v
  have h1 := dependsFinitely_nextStage c.gbypLC c.stage.lc1 z.lc1 h0
  have h2 := dependsFinitely_nextStage c.gbypLC c.stage.lc2 z.lc2 h1
  have h3 := dependsFinitely_nextStage c.gbypLC c.stage.lc3 z.lc3 h2
  have h4 := dependsFinitely_nextStage c.gbypPK c.stage.pk z.pk h3
  have h5 := dependsFinitely_nextStage c.gbypHC c.stage.hc0 z.hc0 h4
  have h6 := dependsFinitely_nextStage c.gbypHC c.stage.hc1 z.hc1 h5
  have h7 := dependsFinitely_nextStage c.gbypHC c.stage.hc2 z.hc2 h6
  have h8 := dependsFinitely_nextStage c.gbypHC c.stage.hc3 z.hc3 h7
  exact (h0.pair (h1.pair (h2.pair (h3.pair (h4.pair (h5.pair (h6.pair (h7.pair h8)))))))).map
    fun (r0, r1, r2, r3, r4, r5, r6, r7, r8) =>
      (r8.1, (⟨r0.2, r1.2, r2.2, r3.2, r4.2, r5.2, r6.2, r7.2, r8.2⟩ : Nine (StageState Word)))

theorem dependsFinitely_processSamples (c : CoeffSet Word) (z : Nine (StageState Word)) (vs : List Word) :
    DependsFinitely F fun G => processSamples G.arith c z vs := by
  induction vs generalizing z with
  | nil => exact dependsFinitely_const _
  | cons v vs ih =>
    exact (dependsFinitely_cascade c z v).bind
      (g := fun r G => (r.1 :: (processSamples G.arith c r.2 vs).1, (processSamples G.arith c r.2 vs).2))
      ((ih _).map fun rest => (_ :: rest.1, rest.2))

theorem dependsFinitely_processChannels (c : CoeffSet Word) (n : Nat) (chs : List Channel) (xs : List Word) :
    DependsFinitely F fun G => processChannels G.arith c n chs xs := by
  induction chs generalizing xs with
  | nil => exact dependsFinitely_const _
  | cons ch chs ih =>
    exact (dependsFinitely_processSamples c ch.z (xs.take n)).map₂
      (fun r rest => (r.1 ++ rest.1, ({ ch with z := r.2 } : Channel) :: rest.2)) (ih (xs.drop n))

end

/-! ## `PROC`, channel by channel (R97, R214) -/

/-- Channel `c` of the payload of `PROC`, channel-major. -/
def channelSlice (n : Nat) (xs : List Word) (c : Nat) : List Word := (xs.drop (c * n)).take n

theorem channelSlice_drop (n : Nat) (xs : List Word) (c : Nat) :
    channelSlice n (xs.drop n) c = channelSlice n xs (c + 1) := by
  simp [channelSlice, Nat.succ_mul, Nat.add_comm]

/-- Each channel is processed with its own state and its own slice of the payload; the outputs stand in channel
order. -/
theorem processChannels_eq (A : Arith Word) (c : CoeffSet Word) (n : Nat) (d : Channel) (chs : List Channel)
    (xs : List Word) :
    processChannels A c n chs xs =
      ((List.range chs.length).flatMap fun i => (processSamples A c (chs.getD i d).z (channelSlice n xs i)).1,
        (List.range chs.length).map fun i =>
          { chs.getD i d with z := (processSamples A c (chs.getD i d).z (channelSlice n xs i)).2 }) := by
  induction chs generalizing xs with
  | nil => rfl
  | cons ch chs ih =>
    have h0 : channelSlice n xs 0 = xs.take n := by simp [channelSlice]
    simp only [processChannels, ih, channelSlice_drop, List.length_cons, List.range_succ_eq_map, List.flatMap_cons,
      List.map_cons, List.flatMap_map, List.map_map, List.getD_cons_zero, List.getD_cons_succ, h0, Function.comp_def]

/-- The CoeffSet a `PROC` runs with: what the mailbox holds, or the active one (R215). -/
def State.procCoeffs (s : State) : CoeffSet Word :=
  match s.mbox with
  | some c => c
  | none => s.act

theorem State.takeCoeffs_eq (s : State) : s.takeCoeffs = { s with act := s.procCoeffs, mbox := none } := by
  unfold State.takeCoeffs State.procCoeffs
  cases h : s.mbox with
  | none => simp [← h]
  | some c => rfl

/-- A whole `PROC` of agent A: the take, then every channel (R214, R215). -/
theorem proc_whole (n : BitVec 18) (xs : List Word) (s : State) (hp : s.cur = .A) (hs : s.turn.split = false) :
    exec (.proc n xs) s =
      .next (State.finish
        { s with
          act := s.procCoeffs
          mbox := none
          chans := (processChannels (Numeric.arith s.cfg.num) s.procCoeffs n.toNat s.chans xs).2 }
        (respondWith n.toNat (processChannels (Numeric.arith s.cfg.num) s.procCoeffs n.toNat s.chans xs).1)) := by
  have h : exec (.proc n xs) s = .next (s.takeCoeffs.runProc n.toNat xs) := by
    simp [exec, execProc, guarded, firstFault, hp, hs]
  rw [h, State.takeCoeffs_eq]
  rfl

/-- Settles O59: a finite table agrees with a format on its operands, and the operands of a `PROC` are finitely many. -/
theorem suppliedFormat : Obligations.SuppliedFormat := by
  refine ⟨fun F id ws es rs => ?_, fun F id s n xs hp hs => ?_⟩
  · obtain ⟨hv, hr⟩ := agreeOn_tableOn F id ws es rs
    exact ⟨tableOn F ws es rs, hv, hr, rndReal_tableOn F id ws es rs⟩
  · obtain ⟨t, ht⟩ := (dependsFinitely_processChannels (F := F) s.procCoeffs n.toNat s.chans xs).exists_table id
    refine ⟨t, ?_⟩
    intro u act slice run
    have hproc : processChannels (Numeric.arith u.cfg.num) u.procCoeffs n.toNat u.chans xs =
        ((List.range s.nch).flatMap fun c => (run c).1,
          (List.range s.nch).map fun c => { s.chan c with z := (run c).2 }) :=
      ht.trans (processChannels_eq F.arith act n.toNat (Channel.afterReset s.cfg.num) s.chans xs)
    rw [proc_whole n xs u hp hs, hproc]
    rfl

end Machine

end Sys2Proof

/-! # Rounding to binary32 (R12, R61)

A positive exact value `x` is rounded on a grid: `ulp t`, the last place, is chosen so that `x / ulp t` has at most 24
bits, and the nearest multiple of it is taken. Every finite binary32 value is on the same grid or is smaller than the
least value that needs it, so none is nearer to `x`. -/

namespace Sys2Proof.Binary32

/-! ## Nearest naturals, ties to even -/

/-- `n` is nearest to `y`, and of two equally near the even one. -/
def NearestEven (y : ℚ) (n : ℕ) : Prop := |y - n| ≤ 1 / 2 ∧ (|y - n| = 1 / 2 → n % 2 = 0)

theorem divNearestEven_nearest (a : ℕ) {b : ℕ} (hb : 0 < b) : NearestEven (a / b) (divNearestEven a b) := by
  have hb' : (0 : ℚ) < b := by exact_mod_cast hb
  have hdiv : (a : ℚ) / b = (a / b : ℕ) + ((a % b : ℕ) : ℚ) / b := by
    have := congrArg (Nat.cast (R := ℚ)) (Nat.div_add_mod a b)
    push_cast at this
    field_simp
    linarith
  have hr0 : (0 : ℚ) ≤ ((a % b : ℕ) : ℚ) / b := by positivity
  have hr1 : ((a % b : ℕ) : ℚ) / b < 1 := by
    rw [div_lt_one hb']
    exact_mod_cast Nat.mod_lt a hb
  have hlt : b < 2 * (a % b) ↔ 1 / 2 < ((a % b : ℕ) : ℚ) / b := by
    rw [lt_div_iff₀ hb', ← Nat.cast_lt (α := ℚ)]
    push_cast
    constructor <;> intro h <;> linarith
  have heq : 2 * (a % b) = b ↔ ((a % b : ℕ) : ℚ) / b = 1 / 2 := by
    rw [div_eq_iff hb'.ne', ← Nat.cast_inj (R := ℚ)]
    push_cast
    constructor <;> intro h <;> linarith
  rw [NearestEven, hdiv]
  unfold divNearestEven
  dsimp only
  generalize ((a % b : ℕ) : ℚ) / b = r at *
  split_ifs with h1 h2
  · rw [hlt] at h1
    push_cast
    rw [abs_of_neg (by linarith)]
    exact ⟨by linarith, fun h => by linarith⟩
  · have hhalf := heq.1 h2.1
    push_cast
    rw [abs_of_neg (by linarith)]
    exact ⟨by linarith, fun _ => by omega⟩
  · rw [hlt, not_lt] at h1
    rw [add_sub_cancel_left, abs_of_nonneg hr0]
    exact ⟨h1, fun hhalf => Nat.mod_two_ne_one.1 fun h => h2 ⟨heq.2 hhalf, h⟩⟩

/-! ## The last place -/

/-- The last place of the values with exponent bits `t + 1`, and with exponent bits 0 for `t = 0`. -/
def ulp (t : ℕ) : ℚ := 2 ^ ((t : ℤ) - 149)

theorem ulp_pos (t : ℕ) : 0 < ulp t := by
  unfold ulp
  positivity

theorem ulp_add (t d : ℕ) : ulp (t + d) = 2 ^ d * ulp t := by
  unfold ulp
  rw [← zpow_natCast, ← zpow_add₀ (by norm_num)]
  congr 1
  push_cast
  ring

theorem ulp_of_ge {t : ℕ} (h : 149 ≤ t) : ulp t = 2 ^ (t - 149) := by
  have e : (t : ℤ) - 149 = (t - 149 : ℕ) := by omega
  rw [ulp, e, zpow_natCast]

theorem ulp_of_le {t : ℕ} (h : t ≤ 149) : ulp t = 1 / 2 ^ (149 - t) := by
  have e : (t : ℤ) - 149 = -(149 - t : ℕ) := by omega
  rw [ulp, e, zpow_neg, zpow_natCast, one_div]

theorem ulp_le {t t' : ℕ} (h : t ≤ t') : ulp t ≤ ulp t' :=
  zpow_le_zpow_right₀ (by norm_num) (by omega)

/-! ## The two parts of `magnitude` -/

/-- Whether `2 ^ e` is no greater than `a / b`, as `magnitude` tests it. -/
def fits (a b : ℕ) (e : ℤ) : Bool :=
  if 0 ≤ e then decide (b * 2 ^ e.toNat ≤ a) else decide (b ≤ a * 2 ^ (-e).toNat)

/-- The exponent of `a / b`, as `magnitude` finds it. -/
def exponent (a b : ℕ) : ℤ :=
  let e0 : ℤ := Nat.log2 a - Nat.log2 b
  if fits a b e0 then e0 else e0 - 1

/-- The place `magnitude` rounds `a / b` to. -/
def place (a b : ℕ) : ℕ := (exponent a b + 126).toNat

/-- `a / b` in units of `ulp t`, rounded as `magnitude` rounds it. -/
def roundAt (a b t : ℕ) : ℕ :=
  if 149 ≤ t then divNearestEven a (b * 2 ^ (t - 149)) else divNearestEven (a * 2 ^ (149 - t)) b

theorem magnitude_eq (a b : ℕ) :
    magnitude a b = min (place a b * 2 ^ 23 + roundAt a b (place a b)) (255 * 2 ^ 23) := rfl

theorem roundAt_nearest (a t : ℕ) {b : ℕ} (hb : 0 < b) : NearestEven (a / b / ulp t) (roundAt a b t) := by
  unfold roundAt
  split_ifs with h
  · have := divNearestEven_nearest a (b := b * 2 ^ (t - 149)) (by positivity)
    rwa [Nat.cast_mul, Nat.cast_pow, Nat.cast_ofNat, ← div_div, ← ulp_of_ge h] at this
  · have := divNearestEven_nearest (a * 2 ^ (149 - t)) hb
    rw [ulp_of_le (by omega), div_div, mul_one_div, div_div_eq_mul_div]
    rwa [Nat.cast_mul, Nat.cast_pow, Nat.cast_ofNat] at this

theorem fits_iff (a : ℕ) {b : ℕ} (hb : 0 < b) (e : ℤ) : fits a b e = true ↔ (2 : ℚ) ^ e ≤ a / b := by
  have hb' : (0 : ℚ) < b := by exact_mod_cast hb
  unfold fits
  split_ifs with h
  · obtain ⟨k, rfl⟩ := Int.eq_ofNat_of_zero_le h
    rw [decide_eq_true_iff, le_div_iff₀ hb', ← Nat.cast_le (α := ℚ)]
    simp [mul_comm]
  · obtain ⟨k, hk⟩ := Int.eq_ofNat_of_zero_le (by omega : 0 ≤ -e)
    obtain rfl : e = -(k : ℤ) := by omega
    rw [decide_eq_true_iff, le_div_iff₀ hb', ← Nat.cast_le (α := ℚ), zpow_neg, inv_mul_le_iff₀ (by positivity)]
    simp [mul_comm]

/-- The difference of the binary logarithms is the exponent of a quotient or one more. -/
theorem log2_sub_bounds {a b : ℕ} (ha : 0 < a) (hb : 0 < b) :
    (2 : ℚ) ^ ((a.log2 : ℤ) - b.log2 - 1) ≤ a / b ∧ (a : ℚ) / b < 2 ^ ((a.log2 : ℤ) - b.log2 + 1) := by
  have pow_sub : ∀ i j : ℕ, (2 : ℚ) ^ ((i : ℤ) - j) = 2 ^ i / 2 ^ j := fun i j => by
    rw [zpow_sub₀ (by norm_num), zpow_natCast, zpow_natCast]
  have ha1 : (2 : ℚ) ^ a.log2 ≤ a := by exact_mod_cast Nat.log2_self_le ha.ne'
  have ha2 : (a : ℚ) < 2 ^ (a.log2 + 1) := by exact_mod_cast Nat.lt_log2_self
  have hb1 : (2 : ℚ) ^ b.log2 ≤ b := by exact_mod_cast Nat.log2_self_le hb.ne'
  have hb2 : (b : ℚ) < 2 ^ (b.log2 + 1) := by exact_mod_cast Nat.lt_log2_self
  constructor
  · have e : (a.log2 : ℤ) - b.log2 - 1 = (a.log2 : ℤ) - (b.log2 + 1 : ℕ) := by push_cast; ring
    rw [e, pow_sub]
    exact div_le_div₀ (by positivity) ha1 (by exact_mod_cast hb) hb2.le
  · have e : (a.log2 : ℤ) - b.log2 + 1 = (a.log2 + 1 : ℕ) - b.log2 := by push_cast; ring
    rw [e, pow_sub]
    exact div_lt_div₀ ha2 hb1 (by positivity) (by positivity)

/-- The exponent of `a / b` is that of the greatest power of two that is no greater. -/
theorem exponent_spec {a b : ℕ} (ha : 0 < a) (hb : 0 < b) :
    (2 : ℚ) ^ exponent a b ≤ a / b ∧ (a : ℚ) / b < 2 ^ (exponent a b + 1) := by
  obtain ⟨hlow, hhigh⟩ := log2_sub_bounds ha hb
  unfold exponent
  dsimp only
  split_ifs with h
  · exact ⟨(fits_iff a hb _).1 h, hhigh⟩
  · rw [fits_iff a hb, not_le] at h
    exact ⟨hlow, by simpa using h⟩

/-! ## What rounding finds -/

/-- `x` has at most 24 bits in units of `ulp t`, 24 unless `t` is 0, and `n` is the nearest number of units. -/
def Rounded (x : ℚ) (t n : ℕ) : Prop :=
  NearestEven (x / ulp t) n ∧ x / ulp t < 2 ^ 24 ∧ (t = 0 ∨ 2 ^ 23 ≤ x / ulp t)

theorem rounded_magnitude {a b : ℕ} (ha : 0 < a) (hb : 0 < b) :
    Rounded (a / b) (place a b) (roundAt a b (place a b)) := by
  obtain ⟨hlow, hhigh⟩ := exponent_spec ha hb
  have hu := ulp_pos (place a b)
  have hscale : ∀ k : ℕ, (2 : ℚ) ^ k * ulp (place a b) = 2 ^ ((k : ℤ) + place a b - 149) := fun k => by
    rw [ulp, ← zpow_natCast, ← zpow_add₀ (by norm_num)]
    congr 1
    ring
  refine ⟨roundAt_nearest a _ hb, ?_, ?_⟩
  · rw [div_lt_iff₀ hu, hscale]
    exact hhigh.trans_le (zpow_le_zpow_right₀ (by norm_num) (by unfold place; omega))
  · rw [le_div_iff₀ hu, hscale]
    by_cases h : place a b = 0
    · exact .inl h
    · exact .inr ((zpow_le_zpow_right₀ (by norm_num) (by unfold place at *; omega)).trans hlow)

theorem NearestEven.bounds {y : ℚ} {n : ℕ} (h : NearestEven y n) : y - 1 / 2 ≤ n ∧ (n : ℚ) ≤ y + 1 / 2 := by
  obtain ⟨h1, h2⟩ := abs_le.1 h.1
  exact ⟨by linarith, by linarith⟩

/-- The number of units is one a binary32 significand holds, or the next. -/
theorem Rounded.units {x : ℚ} {t n : ℕ} (h : Rounded x t n) : n ≤ 2 ^ 24 ∧ (t = 0 ∨ 2 ^ 23 ≤ n) := by
  obtain ⟨hn, hlt, hnormal⟩ := h
  obtain ⟨h1, h2⟩ := hn.bounds
  constructor
  · have : (n : ℚ) < (2 ^ 24 + 1 : ℕ) := by
      push_cast
      linarith
    exact Nat.lt_succ_iff.1 (by exact_mod_cast this)
  · refine hnormal.imp_right fun h3 => ?_
    have : ((2 ^ 23 - 1 : ℕ) : ℚ) < n := by
      push_cast
      linarith
    have : 2 ^ 23 - 1 < n := by exact_mod_cast this
    omega

/-! ## What a word stores (R61) -/

/-- The exponent bits of a word. -/
def exponentBits (w : Word) : ℕ := (w.extractLsb' 23 8).toNat

/-- The significand of a word as an integer: the fraction, with the leading bit of a normal value. -/
def significand (w : Word) : ℕ :=
  if exponentBits w = 0 then (w.extractLsb' 0 23).toNat else 2 ^ 23 + (w.extractLsb' 0 23).toNat

/-- `-1` or `1`. -/
def signOf (neg : Bool) : ℤ := if neg then -1 else 1

@[simp] theorem abs_signOf (neg : Bool) : |signOf neg| = 1 := by cases neg <;> rfl

theorem significand_lt (w : Word) : significand w < 2 ^ 24 := by
  have := (w.extractLsb' 0 23).isLt
  unfold significand
  split_ifs <;> omega

/-- `m * 2 ^ (x - 150)`, as `value` computes it. -/
def scaled (m : ℤ) (x : ℕ) : ℚ := if 150 ≤ x then ((m * 2 ^ (x - 150) : ℤ) : ℚ) else mkRat m (2 ^ (150 - x))

theorem scaled_eq (m : ℤ) {x : ℕ} (hx : 1 ≤ x) : scaled m x = m * ulp (x - 1) := by
  unfold scaled
  split_ifs with h
  · have e : x - 1 - 149 = x - 150 := by omega
    rw [ulp_of_ge (by omega), e]
    push_cast
    rfl
  · have e : 149 - (x - 1) = 150 - x := by omega
    rw [ulp_of_le (by omega), e, Rat.mkRat_eq_div, mul_one_div]
    push_cast
    rfl

/-- A word whose exponent bits are not all ones stores a finite value. -/
theorem value_of_exponentBits {w : Word} (h : exponentBits w ≠ 255) :
    value w = .fin ((signOf (w.getLsbD 31) * significand w : ℤ) * ulp (exponentBits w - 1)) := by
  have hs : (significand w : ℤ) = if exponentBits w = 0 then ((w.extractLsb' 0 23).toNat : ℤ)
      else 2 ^ 23 + (w.extractLsb' 0 23).toNat := by
    unfold significand
    split_ifs <;> simp
  have hsign : (if w.getLsbD 31 then -(significand w : ℤ) else significand w) =
      signOf (w.getLsbD 31) * significand w := by
    unfold signOf
    split_ifs <;> simp
  have hx : (if exponentBits w = 0 then 1 else exponentBits w) - 1 = exponentBits w - 1 := by
    split_ifs <;> omega
  have hv : value w = .fin (scaled (signOf (w.getLsbD 31) * significand w)
      (if exponentBits w = 0 then 1 else exponentBits w)) := by
    rw [← hsign, hs]
    exact if_neg h
  rw [hv, scaled_eq _ (by split_ifs <;> omega), hx]

/-- A word whose exponent bits are all ones stores an infinity or `NaN`. -/
theorem exponentBits_of_fin {w : Word} {u : ℚ} (h : value w = .fin u) : exponentBits w ≠ 255 := by
  intro he
  have hv : value w = if (w.extractLsb' 0 23).toNat = 0 then (if w.getLsbD 31 then .negInf else .posInf) else .nan :=
    if_pos he
  rw [hv] at h
  split_ifs at h

/-- Every finite value is a multiple of `ulp t`, or less than the least value that needs `ulp t`. -/
theorem value_on_grid {w : Word} {u : ℚ} (h : value w = .fin u) (t : ℕ) :
    (∃ k : ℤ, u = k * ulp t) ∨ (0 < t ∧ |u| < 2 ^ 23 * ulp t) := by
  rw [value_of_exponentBits (exponentBits_of_fin h), Extended.fin.injEq] at h
  rcases le_or_gt t (exponentBits w - 1) with hle | hlt
  · left
    obtain ⟨d, hd⟩ := Nat.exists_eq_add_of_le hle
    refine ⟨signOf (w.getLsbD 31) * significand w * 2 ^ d, ?_⟩
    rw [← h, hd, ulp_add]
    push_cast
    ring
  · right
    refine ⟨by omega, ?_⟩
    obtain ⟨d, hd⟩ := Nat.exists_eq_add_of_lt hlt
    have hs : (significand w : ℚ) < 2 ^ 24 := by exact_mod_cast significand_lt w
    have hu := ulp_pos (exponentBits w - 1)
    have habs : |u| = significand w * ulp (exponentBits w - 1) := by
      rw [← h, abs_mul, ← Int.cast_abs, abs_mul, abs_signOf, one_mul, Nat.abs_cast, Int.cast_natCast, abs_of_pos hu]
    rw [habs]
    calc (significand w : ℚ) * ulp (exponentBits w - 1) < 2 ^ 24 * ulp (exponentBits w - 1) := by gcongr
      _ = 2 ^ 23 * ulp (exponentBits w - 1 + 1) := by rw [ulp_add]; ring
      _ ≤ 2 ^ 23 * ulp t := by
        have := ulp_le (show exponentBits w - 1 + 1 ≤ t by omega)
        gcongr

/-! ## Words made of a sign and magnitude bits -/

/-- The word with the given sign and the magnitude bits `m`. -/
def signMagnitude (neg : Bool) (m : ℕ) : Word := BitVec.ofNat 32 (if neg then 2 ^ 31 + m else m)

theorem signMagnitude_toNat (neg : Bool) {m : ℕ} (hm : m < 2 ^ 31) :
    (signMagnitude neg m).toNat = if neg then 2 ^ 31 + m else m := by
  unfold signMagnitude
  rw [BitVec.toNat_ofNat]
  split_ifs <;> omega

theorem getLsbD_31_signMagnitude (neg : Bool) {m : ℕ} (hm : m < 2 ^ 31) :
    (signMagnitude neg m).getLsbD 31 = neg := by
  rw [BitVec.getLsbD, signMagnitude_toNat neg hm, Nat.testBit_eq_decide_div_mod_eq]
  cases neg <;> simp <;> omega

theorem getLsbD_0_signMagnitude (neg : Bool) {m : ℕ} (hm : m < 2 ^ 31) (he : m % 2 = 0) :
    (signMagnitude neg m).getLsbD 0 = false := by
  rw [BitVec.getLsbD, signMagnitude_toNat neg hm, Nat.testBit_zero]
  cases neg <;> simp <;> omega

theorem exponentBits_signMagnitude (neg : Bool) {m : ℕ} (hm : m < 2 ^ 31) :
    exponentBits (signMagnitude neg m) = m / 2 ^ 23 := by
  rw [exponentBits, BitVec.extractLsb'_toNat, signMagnitude_toNat neg hm, Nat.shiftRight_eq_div_pow]
  split_ifs <;> omega

theorem fraction_signMagnitude (neg : Bool) {m : ℕ} (hm : m < 2 ^ 31) :
    ((signMagnitude neg m).extractLsb' 0 23).toNat = m % 2 ^ 23 := by
  rw [BitVec.extractLsb'_toNat, signMagnitude_toNat neg hm, Nat.shiftRight_zero]
  split_ifs <;> omega

/-- The magnitude bits `t * 2 ^ 23 + n` stand for `n` units of `ulp t`, and `n = 2 ^ 24` carries into the exponent. -/
theorem value_signMagnitude (neg : Bool) {t n : ℕ} (hn : n ≤ 2 ^ 24) (ht : t = 0 ∨ 2 ^ 23 ≤ n)
    (hm : t * 2 ^ 23 + n < 255 * 2 ^ 23) :
    value (signMagnitude neg (t * 2 ^ 23 + n)) = .fin ((signOf neg * n : ℤ) * ulp t) := by
  have hm' : t * 2 ^ 23 + n < 2 ^ 31 := by omega
  have he := exponentBits_signMagnitude neg hm'
  have hf := fraction_signMagnitude neg hm'
  rw [value_of_exponentBits (by omega), getLsbD_31_signMagnitude neg hm', significand, he, hf]
  rcases Nat.lt_or_ge n (2 ^ 23) with h1 | h1
  · have e : (t * 2 ^ 23 + n) / 2 ^ 23 = 0 := by omega
    have ht0 : t = 0 := by omega
    rw [if_pos e, e, ht0, Nat.zero_mul, Nat.zero_add, Nat.mod_eq_of_lt h1]
  · rcases Nat.lt_or_ge n (2 ^ 24) with h2 | h2
    · have e : (t * 2 ^ 23 + n) / 2 ^ 23 = t + 1 := by omega
      have f : 2 ^ 23 + (t * 2 ^ 23 + n) % 2 ^ 23 = n := by omega
      rw [e, if_neg (by omega), f, Nat.add_sub_cancel]
    · obtain rfl : n = 2 ^ 24 := by omega
      have e : (t * 2 ^ 23 + 2 ^ 24) / 2 ^ 23 = t + 1 + 1 := by omega
      have f : 2 ^ 23 + (t * 2 ^ 23 + 2 ^ 24) % 2 ^ 23 = 2 ^ 23 := by omega
      rw [e, if_neg (by omega), f, Nat.add_sub_cancel, ulp_add, Extended.fin.injEq]
      push_cast
      ring

/-! ## `rnd` -/

/-- `rnd` gives the magnitude bits the sign of the value, and zero no sign. -/
theorem rnd_fin {q : ℚ} (hq : q ≠ 0) : ∃ neg, rnd (.fin q) = signMagnitude neg (magnitude q.num.natAbs q.den) ∧
    (magnitude q.num.natAbs q.den ≠ 0 → neg = decide (q < 0)) := by
  have hnum : q.num ≠ 0 := Rat.num_ne_zero.2 hq
  simp only [rnd, if_neg hnum]
  generalize magnitude q.num.natAbs q.den = m
  by_cases hm : m = 0
  · exact ⟨false, by simp [hm, signMagnitude], fun h => absurd hm h⟩
  · exact ⟨decide (q < 0), by simp [hm, signMagnitude, Rat.num_neg], fun _ => rfl⟩

theorem abs_eq_natAbs_div (q : ℚ) : |q| = (q.num.natAbs : ℚ) / q.den := by
  rw [Nat.cast_natAbs, Int.cast_abs, ← Nat.abs_cast q.den, ← abs_div, Rat.num_div_den]

/-- A value other than zero is rounded on some grid. -/
theorem exists_rounded {q : ℚ} (hq : q ≠ 0) : ∃ t n, Rounded |q| t n ∧
    magnitude q.num.natAbs q.den = min (t * 2 ^ 23 + n) (255 * 2 ^ 23) := by
  rw [abs_eq_natAbs_div]
  exact ⟨_, _, rounded_magnitude (Int.natAbs_pos.2 (Rat.num_ne_zero.2 hq)) q.den_pos, magnitude_eq _ _⟩

/-! ## The overflow threshold -/

theorem Rounded.lt_top {x : ℚ} {t n : ℕ} (h : Rounded x t n) (hx : x < 2 ^ 128 - 2 ^ 103) :
    t * 2 ^ 23 + n < 255 * 2 ^ 23 := by
  obtain ⟨hn, -⟩ := h.units
  obtain ⟨hnear, -, hnormal⟩ := h
  have ht : t ≤ 253 := by
    by_contra hgt
    have h1 : 2 ^ 23 * ulp t ≤ x := (le_div_iff₀ (ulp_pos t)).1 (hnormal.resolve_left (by omega))
    have h2 : 2 ^ 105 ≤ ulp t := (ulp_of_ge (t := 254) (by norm_num)).ge.trans (ulp_le (by omega))
    linarith
  rcases Nat.lt_or_ge t 253 with h253 | h253
  · omega
  · obtain rfl : t = 253 := by omega
    have hy : x / ulp 253 < 2 ^ 24 - 1 / 2 := by
      rw [ulp_of_ge (by norm_num), div_lt_iff₀ (by norm_num)]
      linarith
    obtain ⟨-, hle⟩ := hnear.bounds
    have : (n : ℚ) < (2 ^ 24 : ℕ) := by
      push_cast
      linarith
    have : n < 2 ^ 24 := by exact_mod_cast this
    omega

theorem Rounded.top_le {x : ℚ} {t n : ℕ} (h : Rounded x t n) (hx : 2 ^ 128 - 2 ^ 103 ≤ x) :
    255 * 2 ^ 23 ≤ t * 2 ^ 23 + n := by
  obtain ⟨-, hn⟩ := h.units
  obtain ⟨hnear, hlt, -⟩ := h
  have ht : 253 ≤ t := by
    by_contra hgt
    have h1 : x < 2 ^ 24 * ulp t := (div_lt_iff₀ (ulp_pos t)).1 hlt
    have h2 : ulp t ≤ 2 ^ 103 := (ulp_le (by omega)).trans (ulp_of_ge (t := 252) (by norm_num)).le
    linarith
  rcases Nat.lt_or_ge 253 t with h253 | h253
  · omega
  · obtain rfl : t = 253 := by omega
    have hy : 2 ^ 24 - 1 / 2 ≤ x / ulp 253 := by
      rw [ulp_of_ge (by norm_num), le_div_iff₀ (by norm_num)]
      linarith
    obtain ⟨hge, -⟩ := hnear.bounds
    have : ((2 ^ 24 - 1 : ℕ) : ℚ) ≤ n := by
      push_cast
      linarith
    have hn' : 2 ^ 24 - 1 ≤ n := by exact_mod_cast this
    by_contra hlt'
    -- the tie between the greatest finite value and the threshold goes up, since the former is odd
    have hodd : n = 2 ^ 24 - 1 := by omega
    have htie : |x / ulp 253 - n| = 1 / 2 := by
      refine le_antisymm hnear.1 (le_trans ?_ (le_abs_self _))
      rw [hodd]
      push_cast
      linarith
    have := hnear.2 htie
    omega

/-! ## Nearest on the grid -/

theorem NearestEven.nearest {y : ℚ} {n : ℕ} (h : NearestEven y n) (k : ℤ) :
    |y - n| ≤ |y - k| ∧ (|y - n| = |y - k| → k ≠ n → n % 2 = 0) := by
  obtain ⟨hle, htie⟩ := h
  by_cases hk : k = n
  · rw [hk, Int.cast_natCast]
    exact ⟨le_rfl, fun _ hne => absurd rfl hne⟩
  · have hone : (1 : ℚ) ≤ |(n : ℚ) - k| := by
      have : (1 : ℤ) ≤ |(n : ℤ) - k| := Int.one_le_abs (by omega)
      exact_mod_cast this
    have htri : |(n : ℚ) - k| ≤ |y - n| + |y - k| := by
      rw [abs_sub_comm y n]
      simpa using abs_sub_le (n : ℚ) y k
    exact ⟨by linarith, fun heq _ => htie (by linarith)⟩

/-- No multiple of the last place is nearer to `x` than the rounded one, and neither is a smaller value. -/
theorem Rounded.nearest {x u : ℚ} {t n : ℕ} (h : Rounded x t n)
    (hu : (∃ k : ℤ, u = k * ulp t) ∨ (0 < t ∧ |u| < 2 ^ 23 * ulp t)) :
    |x - n * ulp t| ≤ |x - u| ∧ (|x - n * ulp t| = |x - u| → u ≠ n * ulp t → n % 2 = 0) := by
  obtain ⟨hnear, -, hnormal⟩ := h
  have hs := ulp_pos t
  have hscale : ∀ v : ℚ, |x - v * ulp t| = |x / ulp t - v| * ulp t := fun v => by
    rw [← abs_of_pos hs, ← abs_mul, abs_of_pos hs, sub_mul, div_mul_cancel₀ _ hs.ne']
  rcases hu with ⟨k, rfl⟩ | ⟨ht, hu⟩
  · obtain ⟨hle, htie⟩ := hnear.nearest k
    rw [hscale, hscale]
    exact ⟨by gcongr, fun heq hne =>
      htie (mul_right_cancel₀ hs.ne' heq) fun hk => hne (by rw [hk, Int.cast_natCast])⟩
  · have hx : 2 ^ 23 * ulp t ≤ x := (le_div_iff₀ hs).1 (hnormal.resolve_left ht.ne')
    have hlt : |x - n * ulp t| < |x - u| := calc
      |x - n * ulp t| ≤ |x - (2 ^ 23 : ℤ) * ulp t| := by
        rw [hscale, hscale]
        have := (hnear.nearest (2 ^ 23)).1
        gcongr
      _ = x - 2 ^ 23 * ulp t := by
        push_cast
        exact abs_of_nonneg (by linarith)
      _ < x - u := by linarith [le_abs_self u]
      _ ≤ |x - u| := le_abs_self _
    exact ⟨hlt.le, fun heq => absurd heq hlt.ne⟩

/-! ## Rounding to nearest even with overflow (R12) -/

theorem value_rnd_zero : value (rnd (.fin 0)) = .fin 0 := by
  have h : rnd (.fin 0) = signMagnitude false (0 * 2 ^ 23 + 0) := rfl
  rw [h, value_signMagnitude false (by omega) (.inl rfl) (by omega)]
  simp

/-- Below the threshold, `rnd` stores the value rounded on its grid, and its last bit is that of the number of units. -/
theorem value_rnd {q : ℚ} (hq : q ≠ 0) (h : |q| < 2 ^ 128 - 2 ^ 103) :
    ∃ t n, Rounded |q| t n ∧ value (rnd (.fin q)) = .fin (signOf (decide (q < 0)) * (n * ulp t)) ∧
      (n % 2 = 0 → (rnd (.fin q)).getLsbD 0 = false) := by
  obtain ⟨t, n, hR, hmag⟩ := exists_rounded hq
  obtain ⟨neg, hrnd, hneg⟩ := rnd_fin hq
  obtain ⟨hn, hnormal⟩ := hR.units
  have hm := hR.lt_top h
  rw [min_eq_left hm.le] at hmag
  rw [hmag] at hrnd hneg
  refine ⟨t, n, hR, ?_, fun he => ?_⟩
  · rw [hrnd, value_signMagnitude neg hn hnormal hm]
    congr 1
    rcases Nat.eq_zero_or_pos n with rfl | hpos
    · simp
    · rw [hneg (by omega)]
      push_cast
      ring
  · rw [hrnd]
    exact getLsbD_0_signMagnitude neg (by omega) (by omega)

/-- From the threshold on, `rnd` gives the infinity with the sign of the value. -/
theorem value_rnd_overflow {q : ℚ} (h : 2 ^ 128 - 2 ^ 103 ≤ |q|) :
    value (rnd (.fin q)) = if q < 0 then .negInf else .posInf := by
  have hq : q ≠ 0 := fun h0 => by
    rw [h0, abs_zero] at h
    linarith
  obtain ⟨t, n, hR, hmag⟩ := exists_rounded hq
  obtain ⟨neg, hrnd, hneg⟩ := rnd_fin hq
  rw [min_eq_right (hR.top_le h)] at hmag
  rw [hrnd, hmag, hneg (by omega)]
  by_cases hlt : q < 0
  · rw [decide_eq_true hlt, if_pos hlt]
    rfl
  · rw [decide_eq_false hlt, if_neg hlt]
    rfl

/-- Distances from `q` are distances from `|q|` with the sign of `q` taken off. -/
theorem abs_sub_eq_abs_abs_sub (q u : ℚ) : |q - u| = |(|q|) - signOf (decide (q < 0)) * u| := by
  by_cases h : q < 0
  · rw [abs_of_neg h, ← abs_neg]
    simp [signOf, h, sub_eq_add_neg, add_comm]
  · rw [abs_of_nonneg (not_lt.1 h)]
    simp [signOf, h]

theorem signOf_mul_signOf_mul (neg : Bool) (x : ℚ) : (signOf neg : ℚ) * (signOf neg * x) = x := by
  cases neg <;> simp [signOf]

/-- A finite value with its sign changed is on the same grid. -/
theorem signed_value_on_grid (neg : Bool) {w : Word} {u : ℚ} (h : value w = .fin u) (t : ℕ) :
    (∃ k : ℤ, signOf neg * u = k * ulp t) ∨ (0 < t ∧ |signOf neg * u| < 2 ^ 23 * ulp t) := by
  refine (value_on_grid h t).imp ?_ fun ⟨ht, hu⟩ => ⟨ht, ?_⟩
  · rintro ⟨k, rfl⟩
    exact ⟨signOf neg * k, by push_cast; ring⟩
  · rwa [abs_mul, ← Int.cast_abs, abs_signOf, Int.cast_one, one_mul]

/-- No finite value is nearer to `q` than what `rnd` stores, and of two equally near it stores the even one. -/
theorem rnd_nearest {q : ℚ} (h : |q| < 2 ^ 128 - 2 ^ 103) :
    ∃ v : ℚ, value (rnd (.fin q)) = .fin v ∧ ∀ (w : Word) (u : ℚ), value w = .fin u →
      |q - v| ≤ |q - u| ∧ (|q - v| = |q - u| → u ≠ v → (rnd (.fin q)).getLsbD 0 = false) := by
  by_cases hq : q = 0
  · subst hq
    refine ⟨0, value_rnd_zero, fun w u _ => ⟨by simp, fun _ _ => rfl⟩⟩
  · obtain ⟨t, n, hR, hv, hbit⟩ := value_rnd hq h
    refine ⟨_, hv, fun w u hu => ?_⟩
    obtain ⟨hle, htie⟩ := hR.nearest (signed_value_on_grid (decide (q < 0)) hu t)
    rw [abs_sub_eq_abs_abs_sub q u, abs_sub_eq_abs_abs_sub q, signOf_mul_signOf_mul]
    refine ⟨hle, fun heq hne => hbit (htie heq fun hsame => hne ?_)⟩
    rw [← hsame, signOf_mul_signOf_mul]

/-- Settles O7, by rounding on the grid of the last place, which holds every finite value that could be nearer. -/
theorem binary32RoundsToNearestEven : Obligations.Binary32RoundsToNearestEven :=
  fun _ => ⟨rnd_nearest, value_rnd_overflow⟩

end Sys2Proof.Binary32

/-! # What an agent's turn does to the channels (R35, R43, R63, R77)

A turn of an agent is a chain of operations on channels, each done under what its command has found. `Channel.Op` lists
the operations once; the invariants of FIFOs and shapes, and what each agent leaves to the other, follow one operation at
a time. -/

namespace Sys2Proof.Machine

/-! ## The operations of an agent on a channel -/

/-- `c'` is channel `c` after one operation of agent `p`, with what its command has found when it does it. `fit` stands
for the shape invariant of the state the turn began in, and `quiet` says that agent A has no push into this channel's
sample FIFO in progress (R311). Proofs use the rules `Op.countDrop` to `Op.process` and the split `Op.elim`. -/
def Channel.Op (cmax : Nat) (fit quiet : Prop) (p : Port) (c c' : Channel) : Prop :=
  (∃ k : FifoKind, k.producer = p ∧ (c.fifo k).prepared = true ∧ c' = c.countDrop k) ∨
  (∃ x : Item, x.kind.producer = p ∧ (c.fifo x.kind).prepared = true ∧ (fit → c.ShapesOk → c.Fits x) ∧ c' = c.copyIn x) ∨
  (∃ k : FifoKind, k.producer = p ∧ (c.fifo k).prepared = true ∧ (c.fifo k).full = false ∧ c' = c.publish k) ∨
  (∃ k : FifoKind, p = .B ∧ (c.fifo k).prepared = true ∧ 0 < (c.fifo k).readable ∧ c' = c.free k) ∨
  (∃ blk : List Word, p = .B ∧ c.sf.prepared = true ∧ 0 < c.sf.readable ∧
    (fit → c.ShapesOk → blk.length ≤ c.size) ∧ c' = c.takeBlock blk) ∨
  (p = .B ∧ c.cf.prepared = true ∧ 0 < c.cf.readable ∧ c' = { c with curve := c.cf.front [], cf := c.cf.free }) ∨
  (∃ (F : NumFormat) (cap shape : Nat) (k : FifoKind), p = .B ∧ 0 < cap ∧ cap ≤ cmax ∧
    (k = .mf → ∃ o, c.ord = some o ∧ shape = o.size / 2) ∧ (k = .sf → quiet) ∧ c' = c.prepare F cap shape k) ∨
  (∃ (F : NumFormat) (o : Order), p = .B ∧ c' = c.changeOrder F o) ∨
  (∃ z : Nine (StageState Word), p = .A ∧ c' = { c with z := z })

/-- A chain of operations of agent `p` on a channel. -/
def Channel.Moves (cmax : Nat) (fit quiet : Prop) (p : Port) : Channel → Channel → Prop :=
  Relation.ReflTransGen (Channel.Op cmax fit quiet p)

/-- What agent A's turns leave of a channel for agent B's command in progress (R77). -/
def Channel.KeptByA (c c' : Channel) : Prop :=
  c'.ord = c.ord ∧ c'.mf = c.mf ∧ c'.cf = c.cf ∧ c'.sf.prepared = c.sf.prepared ∧ c'.sf.shape = c.sf.shape ∧
    c.sf.readable ≤ c'.sf.readable

/-- What agent B's turns leave of a channel for a push of agent A in progress (R77). -/
def Channel.KeptByB (c c' : Channel) : Prop :=
  c'.sf.prepared = c.sf.prepared ∧ c'.sf.shape = c.sf.shape ∧ (c.sf.full = false → c'.sf.full = false)

namespace Fifo

/-- The element at the head of a FIFO is in one of its slots, or the empty one where no slot is read. -/
theorem front_length_le {α : Type} {q : Fifo (List α)} {n : Nat}
    (h : ∀ x ∈ q.slots, x.length ≤ n) : (q.front []).length ≤ n := by
  unfold front
  rw [List.getD_eq_getElem?_getD]
  cases hx : q.slots[q.rd % q.cap]? with
  | none => exact Nat.zero_le n
  | some x => exact h x (List.mem_of_getElem? hx)

/-- A pull leaves a FIFO with room. -/
theorem free_not_full {α : Type} {q : Fifo α} (h : q.full = false) : q.free.full = false := by
  rw [full_eq_false] at h ⊢
  simp only [free]
  omega

end Fifo

namespace Channel

section

variable {cmax : Nat} {fit quiet : Prop} {p : Port} {c c' : Channel}

/-! ### One rule for each operation, and the split by operations -/

theorem Op.countDrop (k : FifoKind) (hk : k.producer = p) (hp : (c.fifo k).prepared = true) :
    Op cmax fit quiet p c (c.countDrop k) := .inl ⟨k, hk, hp, rfl⟩

theorem Op.copyIn (x : Item) (hk : x.kind.producer = p) (hp : (c.fifo x.kind).prepared = true)
    (hf : fit → c.ShapesOk → c.Fits x) : Op cmax fit quiet p c (c.copyIn x) := .inr (.inl ⟨x, hk, hp, hf, rfl⟩)

theorem Op.publish (k : FifoKind) (hk : k.producer = p) (hp : (c.fifo k).prepared = true)
    (hr : (c.fifo k).full = false) : Op cmax fit quiet p c (c.publish k) :=
  .inr (.inr (.inl ⟨k, hk, hp, hr, rfl⟩))

theorem Op.free (k : FifoKind) (hb : p = .B) (hp : (c.fifo k).prepared = true) (hr : 0 < (c.fifo k).readable) :
    Op cmax fit quiet p c (c.free k) := .inr (.inr (.inr (.inl ⟨k, hb, hp, hr, rfl⟩)))

theorem Op.takeBlock (blk : List Word) (hb : p = .B) (hp : c.sf.prepared = true) (hr : 0 < c.sf.readable)
    (hf : fit → c.ShapesOk → blk.length ≤ c.size) : Op cmax fit quiet p c (c.takeBlock blk) :=
  .inr (.inr (.inr (.inr (.inl ⟨blk, hb, hp, hr, hf, rfl⟩))))

theorem Op.keepCurve (hb : p = .B) (hp : c.cf.prepared = true) (hr : 0 < c.cf.readable) :
    Op cmax fit quiet p c { c with curve := c.cf.front [], cf := c.cf.free } :=
  .inr (.inr (.inr (.inr (.inr (.inl ⟨hb, hp, hr, rfl⟩)))))

theorem Op.prepare (F : NumFormat) (cap shape : Nat) (k : FifoKind) (hb : p = .B) (h0 : 0 < cap) (h1 : cap ≤ cmax)
    (hm : k = .mf → ∃ o, c.ord = some o ∧ shape = o.size / 2) (hq : k = .sf → quiet) :
    Op cmax fit quiet p c (c.prepare F cap shape k) :=
  .inr (.inr (.inr (.inr (.inr (.inr (.inl ⟨F, cap, shape, k, hb, h0, h1, hm, hq, rfl⟩))))))

theorem Op.changeOrder (F : NumFormat) (o : Order) (hb : p = .B) : Op cmax fit quiet p c (c.changeOrder F o) :=
  .inr (.inr (.inr (.inr (.inr (.inr (.inr (.inl ⟨F, o, hb, rfl⟩)))))))

theorem Op.process (z : Nine (StageState Word)) (ha : p = .A) : Op cmax fit quiet p c { c with z := z } :=
  .inr (.inr (.inr (.inr (.inr (.inr (.inr (.inr ⟨z, ha, rfl⟩)))))))

/-- The split by operations, for `cases … using`. -/
theorem Op.elim {motive : ∀ c', Op cmax fit quiet p c c' → Prop} (h : Op cmax fit quiet p c c')
    (countDrop : ∀ k hk hp, motive _ (Op.countDrop k hk hp))
    (copyIn : ∀ x hk hp hf, motive _ (Op.copyIn x hk hp hf))
    (publish : ∀ k hk hp hr, motive _ (Op.publish k hk hp hr))
    (free : ∀ k hb hp hr, motive _ (Op.free k hb hp hr))
    (takeBlock : ∀ blk hb hp hr hf, motive _ (Op.takeBlock blk hb hp hr hf))
    (keepCurve : ∀ hb hp hr, motive _ (Op.keepCurve hb hp hr))
    (prepare : ∀ F cap shape k hb h0 h1 hm hq, motive _ (Op.prepare F cap shape k hb h0 h1 hm hq))
    (changeOrder : ∀ F o hb, motive _ (Op.changeOrder F o hb))
    (process : ∀ z ha, motive _ (Op.process z ha)) : motive c' h := by
  rcases h with ⟨k, hk, hp, rfl⟩ | ⟨x, hk, hp, hf, rfl⟩ | ⟨k, hk, hp, hr, rfl⟩ | ⟨k, hb, hp, hr, rfl⟩ |
    ⟨blk, hb, hp, hr, hf, rfl⟩ | ⟨hb, hp, hr, rfl⟩ | ⟨F, cap, shape, k, hb, h0, h1, hm, hq, rfl⟩ | ⟨F, o, hb, rfl⟩ |
    ⟨z, ha, rfl⟩
  · exact countDrop k hk hp
  · exact copyIn x hk hp hf
  · exact publish k hk hp hr
  · exact free k hb hp hr
  · exact takeBlock blk hb hp hr hf
  · exact keepCurve hb hp hr
  · exact prepare F cap shape k hb h0 h1 hm hq
  · exact changeOrder F o hb
  · exact process z ha

/-! ### Equations of the operations -/

theorem copyIn_sf_of_ne {c : Channel} {x : Item} (h : x.kind ≠ .sf) : (c.copyIn x).sf = c.sf := by
  cases x with
  | samples xs => exact absurd rfl h
  | spectrum db => rfl
  | curve ps => rfl

theorem front_kind (c : Channel) (k : FifoKind) : (c.front k).kind = k := by
  cases k <;> rfl

theorem producer_ne_B {k : FifoKind} : k.producer ≠ .B ↔ k = .sf := by
  cases k <;> simp [FifoKind.producer]

theorem producer_eq_B {k : FifoKind} : k.producer = .B ↔ k ≠ .sf := by
  cases k <;> simp [FifoKind.producer]

theorem producer_ne_H (k : FifoKind) : k.producer ≠ .H := by
  cases k <;> simp [FifoKind.producer]

theorem analyse_sf (cfg : Config) (f : Word) (c : Channel) : (c.analyse cfg f).sf = c.sf := by
  unfold analyse push
  split <;> rfl

theorem analyse_ord (cfg : Config) (f : Word) (c : Channel) : (c.analyse cfg f).ord = c.ord := by
  unfold analyse push
  split <;> rfl

theorem genCurve_mf (F : NumFormat) (stride : Nat) (bt bw bh b f : Word) (c : Channel) :
    (c.genCurve F stride bt bw bh b f).mf = c.mf.free := by
  unfold genCurve push
  split <;> rfl

/-! ### FIFOs stay well formed -/

theorem Op.fifosOk (h : Op cmax fit quiet p c c') (hc : c.FifosOk cmax) : c'.FifosOk cmax := by
  cases h using Op.elim with
  | countDrop k hk hp => exact countDrop_fifosOk k hp hc
  | copyIn x hk hp hf => exact copyIn_fifosOk x hp hc
  | publish k hk hp hr => exact publish_fifosOk k hp hr hc
  | free k hb hp hr => exact free_fifosOk k hp hr hc
  | takeBlock blk hb hp hr hf => exact takeBlock_fifosOk blk hp hr hc
  | keepCurve hb hp hr =>
    obtain ⟨hsf, hmf, hcf⟩ := hc
    exact ⟨hsf, hmf, Fifo.free_ok hp hr hcf⟩
  | prepare F cap shape k hb h0 h1 hm hq => exact prepare_fifosOk F cap shape k h0 h1 hc
  | changeOrder F o hb => exact changeOrder_fifosOk F o hc
  | process z ha => exact hc

theorem Moves.fifosOk (h : Moves cmax fit quiet p c c') (hc : c.FifosOk cmax) : c'.FifosOk cmax := by
  induction h with
  | refl => exact hc
  | tail _ ho ih => exact ho.fifosOk ih

/-! ### Elements keep their shapes -/

/-- An element that fits a FIFO may be written into any of its slots. -/
theorem copyIn_shapesOk {c : Channel} {x : Item} (hf : c.Fits x) (hc : c.ShapesOk) : (c.copyIn x).ShapesOk := by
  obtain ⟨hwin, hsf, hmf, hord, hcf, hcurve⟩ := hc
  cases x with
  | samples xs =>
    refine ⟨hwin, fun y hy => ?_, hmf, hord, hcf, hcurve⟩
    rcases List.mem_or_eq_of_mem_set hy with hy | rfl
    · exact hsf y hy
    · exact hf
  | spectrum db =>
    refine ⟨hwin, hsf, fun y hy => ?_, hord, hcf, hcurve⟩
    rcases List.mem_or_eq_of_mem_set hy with hy | rfl
    · exact hmf y hy
    · exact hf
  | curve ps =>
    refine ⟨hwin, hsf, hmf, hord, fun y hy => ?_, hcurve⟩
    rcases List.mem_or_eq_of_mem_set hy with hy | rfl
    · exact hcf y hy
    · exact hf

/-- The cursors and the overflow counter have no part in the shapes. -/
theorem countDrop_shapesOk {c : Channel} (k : FifoKind) (hc : c.ShapesOk) : (c.countDrop k).ShapesOk := by
  cases k <;> exact hc

theorem publish_shapesOk {c : Channel} (k : FifoKind) (hc : c.ShapesOk) : (c.publish k).ShapesOk := by
  cases k <;> exact hc

theorem free_shapesOk {c : Channel} (k : FifoKind) (hc : c.ShapesOk) : (c.free k).ShapesOk := by
  cases k <;> exact hc

theorem takeBlock_shapesOk {c : Channel} {blk : List Word} (hf : blk.length ≤ c.size) (hc : c.ShapesOk) :
    (c.takeBlock blk).ShapesOk := by
  obtain ⟨hwin, hrest⟩ := hc
  refine ⟨?_, hrest⟩
  have hlen : c.win.length = c.size := hwin
  change (shiftIn c.win blk).length = c.size
  rw [shiftIn, List.length_append, List.length_drop]
  omega

theorem keepCurve_shapesOk {c : Channel} (hc : c.ShapesOk) :
    ({ c with curve := c.cf.front [], cf := c.cf.free } : Channel).ShapesOk := by
  obtain ⟨hwin, hsf, hmf, hord, hcf, -⟩ := hc
  exact ⟨hwin, hsf, hmf, hord, hcf, Fifo.front_length_le hcf⟩

theorem prepare_shapesOk (F : NumFormat) {c : Channel} (cap shape : Nat) (k : FifoKind)
    (hm : k = .mf → ∃ o, c.ord = some o ∧ shape = o.size / 2) (hc : c.ShapesOk) :
    (c.prepare F cap shape k).ShapesOk := by
  obtain ⟨hwin, hsf, hmf, hord, hcf, hcurve⟩ := hc
  cases k with
  | sf =>
    refine ⟨hwin, fun y hy => ?_, hmf, hord, hcf, hcurve⟩
    rw [List.eq_of_mem_replicate hy]
    exact List.length_replicate
  | mf =>
    refine ⟨hwin, hsf, fun y hy => ?_, fun _ => hm rfl, hcf, hcurve⟩
    rw [List.eq_of_mem_replicate hy]
    exact List.length_replicate
  | cf =>
    refine ⟨hwin, hsf, hmf, hord, fun y hy => ?_, hcurve⟩
    rw [List.eq_of_mem_replicate hy]
    exact Nat.zero_le _

/-- A change of order gives the window and a prepared spectrum FIFO the sizes of the new order (R158). -/
theorem changeOrder_shapesOk (F : NumFormat) {c : Channel} (o : Order) (hc : c.ShapesOk) :
    (c.changeOrder F o).ShapesOk := by
  obtain ⟨-, hsf, hmf, -, hcf, hcurve⟩ := hc
  have hwin : (c.changeOrder F o).WindowOk := List.length_replicate
  cases hp : c.mf.prepared with
  | true =>
    have hnew : (c.changeOrder F o).mf = Fifo.prepare c.mf.cap (o.size / 2) (List.replicate (o.size / 2) (resetZero F)) :=
      if_pos hp
    refine ⟨hwin, hsf, ?_, fun _ => ⟨o, rfl, ?_⟩, hcf, hcurve⟩
    · rw [hnew]
      intro y hy
      rw [List.eq_of_mem_replicate hy]
      exact List.length_replicate
    · rw [hnew]
      rfl
  | false =>
    have hold : (c.changeOrder F o).mf = c.mf := if_neg (by simp [hp])
    refine ⟨hwin, hsf, ?_, ?_, hcf, hcurve⟩
    · rwa [hold]
    · rw [hold, hp]
      exact fun h => absurd h Bool.false_ne_true

theorem Op.shapesOk (h : Op cmax fit quiet p c c') (hfit : fit) (hc : c.ShapesOk) : c'.ShapesOk := by
  cases h using Op.elim with
  | countDrop k hk hp => exact countDrop_shapesOk k hc
  | copyIn x hk hp hf => exact copyIn_shapesOk (hf hfit hc) hc
  | publish k hk hp hr => exact publish_shapesOk k hc
  | free k hb hp hr => exact free_shapesOk k hc
  | takeBlock blk hb hp hr hf => exact takeBlock_shapesOk (hf hfit hc) hc
  | keepCurve hb hp hr => exact keepCurve_shapesOk hc
  | prepare F cap shape k hb h0 h1 hm hq => exact prepare_shapesOk F cap shape k hm hc
  | changeOrder F o hb => exact changeOrder_shapesOk F o hc
  | process z ha => exact hc

theorem Moves.shapesOk (h : Moves cmax fit quiet p c c') (hfit : fit) (hc : c.ShapesOk) : c'.ShapesOk := by
  induction h with
  | refl => exact hc
  | tail _ ho ih => exact ho.shapesOk hfit ih

/-! ### What the agents leave to one another -/

theorem KeptByA.refl (c : Channel) : KeptByA c c := ⟨rfl, rfl, rfl, rfl, rfl, le_rfl⟩

theorem KeptByA.trans {c d e : Channel} (h : KeptByA c d) (h' : KeptByA d e) : KeptByA c e := by
  obtain ⟨hord, hmf, hcf, hprepared, hshape, hreadable⟩ := h
  obtain ⟨hord', hmf', hcf', hprepared', hshape', hreadable'⟩ := h'
  exact ⟨hord'.trans hord, hmf'.trans hmf, hcf'.trans hcf, hprepared'.trans hprepared, hshape'.trans hshape,
    hreadable.trans hreadable'⟩

theorem KeptByB.refl (c : Channel) : KeptByB c c := ⟨rfl, rfl, id⟩

theorem KeptByB.trans {c d e : Channel} (h : KeptByB c d) (h' : KeptByB d e) : KeptByB c e := by
  obtain ⟨hprepared, hshape, hroom⟩ := h
  obtain ⟨hprepared', hshape', hroom'⟩ := h'
  exact ⟨hprepared'.trans hprepared, hshape'.trans hshape, hroom' ∘ hroom⟩

/-- An agent other than B owns no more than the write cursor, the slots and the overflow counter of the sample FIFO, and
the stage states. -/
theorem Op.keptByA (h : Op cmax fit quiet p c c') (hp : p ≠ .B) : KeptByA c c' := by
  cases h using Op.elim with
  | countDrop k hk =>
    cases producer_ne_B.1 (hk.trans_ne hp)
    exact ⟨rfl, rfl, rfl, rfl, rfl, le_rfl⟩
  | copyIn x hk =>
    cases x with
    | samples xs => exact ⟨rfl, rfl, rfl, rfl, rfl, le_rfl⟩
    | _ => cases producer_ne_B.1 (hk.trans_ne hp)
  | publish k hk =>
    cases producer_ne_B.1 (hk.trans_ne hp)
    exact ⟨rfl, rfl, rfl, rfl, rfl, Nat.sub_le_sub_right (Nat.le_succ _) _⟩
  | process z => exact ⟨rfl, rfl, rfl, rfl, rfl, le_rfl⟩
  | free k hb | takeBlock blk hb | keepCurve hb | prepare F cap shape k hb | changeOrder F o hb => exact absurd hb hp

theorem Moves.keptByA (h : Moves cmax fit quiet p c c') (hp : p ≠ .B) : KeptByA c c' := by
  induction h with
  | refl => exact KeptByA.refl c
  | tail _ ho ih => exact ih.trans (ho.keptByA hp)

/-- Of the sample FIFO an agent other than A moves the read cursor, which only makes room, unless it prepares it anew. -/
theorem Op.keptByB (h : Op cmax fit quiet p c c') (hp : p ≠ .A) (hq : ¬ quiet) : KeptByB c c' := by
  have hsame : ∀ d : Channel, d.sf = c.sf → KeptByB c d := fun d hd =>
    ⟨by rw [hd], by rw [hd], by rw [hd]; exact id⟩
  have hpull : ∀ d : Channel, d.sf = c.sf.free → KeptByB c d := fun d hd =>
    ⟨by rw [hd]; rfl, by rw [hd]; rfl, by rw [hd]; exact Fifo.free_not_full⟩
  cases h using Op.elim with
  | countDrop k hk =>
    cases k with
    | sf => exact absurd hk.symm hp
    | mf | cf => exact hsame _ rfl
  | copyIn x hk => exact hsame _ (copyIn_sf_of_ne fun hsf => hp (hk.symm.trans (congrArg FifoKind.producer hsf)))
  | publish k hk =>
    cases k with
    | sf => exact absurd hk.symm hp
    | mf | cf => exact hsame _ rfl
  | free k =>
    cases k with
    | sf => exact hpull _ rfl
    | mf | cf => exact hsame _ rfl
  | takeBlock blk => exact hpull _ rfl
  | prepare F cap shape k hb h0 h1 hm hq' =>
    cases k with
    | sf => exact absurd (hq' rfl) hq
    | mf | cf => exact hsame _ rfl
  | keepCurve | changeOrder F o => exact hsame _ rfl
  | process z ha => exact absurd ha hp

theorem Moves.keptByB (h : Moves cmax fit quiet p c c') (hp : p ≠ .A) (hq : ¬ quiet) : KeptByB c c' := by
  induction h with
  | refl => exact KeptByB.refl c
  | tail _ ho ih => exact ih.trans (ho.keptByB hp hq)

end

end Channel

end Sys2Proof.Machine

/-! # A turn of an agent, said once

Every command that passes its checks, and every micro-step, makes operations on the channels and then either ends its
command with a response or leaves it in progress: `State.Turned`. -/

namespace Sys2Proof.Machine

/-! ## Channel by channel -/

/-- What holds of a channel after reset holds of all channels when it holds of each the block has. -/
theorem State.forall_chan_iff {P : Channel → Prop} (s : State) (h0 : P (Channel.afterReset s.cfg.num)) :
    (∀ c ∈ s.chans, P c) ↔ ∀ ch, P (s.chan ch) := by
  constructor
  · intro h ch
    by_cases hn : ch < s.nch
    · exact h _ (s.chan_mem ch hn)
    · rw [State.chan, List.getD_eq_default _ _ (Nat.le_of_not_lt hn)]
      exact h0
  · intro h c hc
    obtain ⟨ch, hlt, rfl⟩ := List.getElem_of_mem hc
    simpa [State.chan, hlt] using h ch

/-- What an update of one channel gives a FIFO to pull from. -/
theorem State.canPull_modChan {s : State} {ch n : Nat} {k : FifoKind} {f : Channel → Channel} (hn : ch < s.nch)
    (hp : ((f (s.chan ch)).fifo k).prepared = true) (hr : n ≤ ((f (s.chan ch)).fifo k).readable) :
    (s.modChan ch f).CanPull ch k n := by
  rw [State.CanPull, State.modChan_nch, State.chan_modChan_same _ _ _ hn]
  exact ⟨hn, hp, hr⟩

/-- What an update of one channel gives a FIFO to push into. -/
theorem State.canPush_modChan {s : State} {ch : Nat} {k : FifoKind} {f : Channel → Channel} (hn : ch < s.nch)
    (hp : ((f (s.chan ch)).fifo k).prepared = true) (hr : ((f (s.chan ch)).fifo k).full = false) :
    (s.modChan ch f).CanPush ch k := by
  rw [State.CanPush, State.modChan_nch, State.chan_modChan_same _ _ _ hn]
  exact ⟨hn, hp, hr⟩

/-! ## The command in progress -/

/-- What holds while the command in progress of port `p` waits for its next micro-step; agent H has none. -/
def State.MicroOk (s : State) : Port → Micro → Prop
  | .A => s.MicroOkA
  | .B => s.MicroOkB
  | .H => fun _ => False

theorem State.MicroOkA.cases {s : State} {m : Micro} (h : s.MicroOkA m) :
    (∃ ch xs, m = .pushCopy ch (.samples xs) ∧ s.CanPush ch .sf) ∨ (∃ ch, m = .pushPublish ch .sf ∧ s.CanPush ch .sf) ∨
      ∃ n xs, m = .procRun n xs := by
  cases m with
  | pushCopy ch x =>
    cases x with
    | samples xs => exact .inl ⟨ch, xs, rfl, h⟩
    | _ => exact h.elim
  | pushPublish ch k =>
    cases k with
    | sf => exact .inr (.inl ⟨ch, rfl, h⟩)
    | _ => exact h.elim
  | procRun n xs => exact .inr (.inr ⟨n, xs, rfl⟩)
  | _ => exact h.elim

/-- A push in progress waits for its copy. -/
theorem State.microOk_pushCopy {s : State} {p : Port} {ch : Nat} {x : Item} :
    s.MicroOk p (.pushCopy ch x) ↔ x.kind.producer = p ∧ s.CanPush ch x.kind := by
  cases p with
  | A =>
    cases x with
    | samples xs => exact ⟨fun h => ⟨rfl, h⟩, And.right⟩
    | spectrum db | curve ps => exact iff_of_false id fun h => by cases h.1
  | B => exact (and_congr_left' Channel.producer_eq_B).symm
  | H => exact iff_of_false id fun h => Channel.producer_ne_H _ h.1

/-- A push in progress waits for the store of its cursor. -/
theorem State.microOk_pushPublish {s : State} {p : Port} {ch : Nat} {k : FifoKind} :
    s.MicroOk p (.pushPublish ch k) ↔ k.producer = p ∧ s.CanPush ch k := by
  cases p with
  | A =>
    cases k with
    | sf => exact ⟨fun h => ⟨rfl, h⟩, And.right⟩
    | mf | cf => exact iff_of_false id fun h => by cases h.1
  | B => exact (and_congr_left' Channel.producer_eq_B).symm
  | H => exact iff_of_false id fun h => Channel.producer_ne_H _ h.1

/-- Only agent A waits in a `PROC`. -/
theorem State.microOk_procRun {s : State} {p : Port} {n : Nat} {xs : List Word} :
    s.MicroOk p (.procRun n xs) ↔ p = .A := by
  cases p with
  | A => exact ⟨fun _ => rfl, fun _ => trivial⟩
  | B | H => exact iff_of_false id fun h => by cases h

/-- A command in progress that is none of agent A's is agent B's. -/
theorem State.MicroOk.ofB {s : State} {p : Port} {m : Micro} (h : s.MicroOk p m) (hA : ¬ s.MicroOkA m) :
    p = .B ∧ s.MicroOkB m := by
  cases p with
  | A => exact absurd h hA
  | B => exact ⟨rfl, h⟩
  | H => exact h.elim

/-! ## What a turn does -/

/-- `t` has the parameters of `s`, and its channels after operations of agent `p`. -/
def State.ChansMoved (s : State) (fit : Prop) (quiet : Nat → Prop) (p : Port) (t : State) : Prop :=
  t.cfg = s.cfg ∧ t.nch = s.nch ∧ ∀ ch, Channel.Moves s.cfg.cmax fit (quiet ch) p (s.chan ch) (t.chan ch)

/-- The part of a turn of agent `p` before its command ends or waits: no port has moved. -/
def State.Moved (fit : Prop) (quiet : Nat → Prop) (p : Port) (s t : State) : Prop :=
  t.ports = s.ports ∧ t.turn = s.turn ∧ s.ChansMoved fit quiet p t

/-- `t` ends the command of the current port of `s` with one response, or leaves it in progress. -/
def State.EndsOrWaits (s t : State) : Prop :=
  (∃ r, t.ports = (s.finish r).ports) ∨ ∃ m, t.ports = (s.setBusy m).ports

/-- A command of port `p` in progress finds what it needs. -/
def State.Waiting (t : State) (fit : Prop) (p : Port) : Prop :=
  ∀ m, (t.port p).busy = some m → t.MicroOk p m ∧ (fit → t.MicroFits m)

/-- `t` is `s` after a turn of agent `p`: operations on channels, and then the end of its command or the next micro-step,
which finds what it needs. -/
def State.Turned (fit : Prop) (quiet : Nat → Prop) (p : Port) (s t : State) : Prop :=
  s.ChansMoved fit quiet p t ∧ s.EndsOrWaits t ∧ t.Waiting fit p

namespace State

/-- The store of a register touches no channel and no port. -/
theorem writeReg_frame (s : State) (r : Reg) (v : Word) :
    (s.writeReg r v).cfg = s.cfg ∧ (s.writeReg r v).chans = s.chans ∧ (s.writeReg r v).ports = s.ports ∧
      (s.writeReg r v).turn = s.turn := by
  unfold writeReg
  split <;> simp

section

variable {fit : Prop} {quiet : Nat → Prop} {p : Port} {s t : State}

/-- Operations that touch no channel and no port. -/
theorem Moved.of_frame (h : t.cfg = s.cfg ∧ t.chans = s.chans ∧ t.ports = s.ports ∧ t.turn = s.turn) :
    Moved fit quiet p s t := by
  obtain ⟨hcfg, hchans, hports, hturn⟩ := h
  refine ⟨hports, hturn, hcfg, congrArg List.length hchans, fun ch => ?_⟩
  rw [chan, chan, hchans, hcfg]
  exact .refl

theorem Moved.refl : Moved fit quiet p s s := .of_frame ⟨rfl, rfl, rfl, rfl⟩

theorem Moved.modChan (ch : Nat) (f : Channel → Channel)
    (h : ch < s.nch → Channel.Moves s.cfg.cmax fit (quiet ch) p (s.chan ch) (f (s.chan ch))) :
    Moved fit quiet p s (s.modChan ch f) := by
  refine ⟨rfl, rfl, rfl, modChan_nch s ch f, fun d => ?_⟩
  by_cases hd : d = ch
  · subst hd
    exact chan_modChan_rel (Channel.Moves s.cfg.cmax fit (quiet d) p) (fun _ => .refl) s d f h d
  · rw [chan_modChan_ne s ch d f hd]
    exact .refl

theorem Moved.trans {u : State} (h : Moved fit quiet p s t) (h' : Moved fit quiet p t u) : Moved fit quiet p s u := by
  obtain ⟨hports, hturn, hcfg, hnch, hchans⟩ := h
  obtain ⟨hports', hturn', hcfg', hnch', hchans'⟩ := h'
  rw [hcfg] at hchans'
  exact ⟨hports'.trans hports, hturn'.trans hturn, hcfg'.trans hcfg, hnch'.trans hnch,
    fun ch => (hchans ch).trans (hchans' ch)⟩

/-- The ports after a response depend on the ports and the turn before it. -/
theorem finish_ports_congr (hports : t.ports = s.ports) (hturn : t.turn = s.turn) (r : Response) :
    (t.finish r).ports = (s.finish r).ports := by
  simp only [finish_ports, port, cur, hports, hturn]

theorem setBusy_ports_congr (hports : t.ports = s.ports) (hturn : t.turn = s.turn) (m : Micro) :
    (t.setBusy m).ports = (s.setBusy m).ports := by
  simp only [setBusy_ports, port, cur, hports, hturn]

theorem finish_busy (s : State) (r : Response) : ((s.finish r).port s.cur).busy = none := by
  rw [finish_port_cur]

theorem setBusy_port_cur (s : State) (m : Micro) :
    (s.setBusy m).port s.cur =
      { stream := (s.port s.cur).stream, pc := (s.port s.cur).pc, busy := some m, out := (s.port s.cur).out } := by
  simp [setBusy]

theorem EndsOrWaits.finish (hports : t.ports = s.ports) (hturn : t.turn = s.turn) (r : Response) :
    s.EndsOrWaits (t.finish r) := .inl ⟨r, finish_ports_congr hports hturn r⟩

theorem EndsOrWaits.setBusy (hports : t.ports = s.ports) (hturn : t.turn = s.turn) (m : Micro) :
    s.EndsOrWaits (t.setBusy m) := .inr ⟨m, setBusy_ports_congr hports hturn m⟩

/-- The end of a command, with a response. -/
theorem Turned.finish (h : Moved fit quiet s.cur s t) (r : Response) : Turned fit quiet s.cur s (t.finish r) := by
  obtain ⟨hports, hturn, hchans⟩ := h
  have hcur : t.cur = s.cur := congrArg Turn.port hturn
  refine ⟨hchans, .finish hports hturn r, fun m hm => ?_⟩
  rw [← hcur, finish_busy] at hm
  cases hm

/-- A command goes on with a micro-step, which finds what it needs. -/
theorem Turned.setBusy {m : Micro} (h : Moved fit quiet s.cur s t) (hok : t.MicroOk s.cur m)
    (hfit : fit → t.MicroFits m) : Turned fit quiet s.cur s (t.setBusy m) := by
  obtain ⟨hports, hturn, hchans⟩ := h
  have hcur : t.cur = s.cur := congrArg Turn.port hturn
  refine ⟨hchans, .setBusy hports hturn m, fun m' hm => ?_⟩
  rw [← hcur, setBusy_port_cur] at hm
  cases hm
  exact ⟨hok, hfit⟩

end

end State

end Sys2Proof.Machine

/-! # The commands as operations on a channel -/

namespace Sys2Proof.Machine

/-! ## Polylines and payloads (R97, R184) -/

/-- The loop visits one bin for each unit of fuel and keeps at most its point. -/
theorem genPathFrom_length_le {α : Type} (A : Arith α) (db : List α) (half stride : Nat) (bt bw bh b f : α)
    (fuel k : Nat) : (genPathFrom A db half stride bt bw bh b f fuel k).length ≤ fuel := by
  induction fuel generalizing k with
  | zero => exact le_rfl
  | succ fuel ih =>
    have hpoint : ∀ o : Option (Point α), o.toList.length ≤ 1 := fun o => by cases o <;> simp
    unfold genPathFrom
    split
    · have h1 := hpoint (pointOf A k (db.getD k (A.ofRat 0)) bt bw bh b f)
      have h2 := ih (k + stride)
      rw [List.length_append]
      omega
    · exact Nat.zero_le _

theorem Channel.size_le (c : Channel) : c.size ≤ 8192 := by
  unfold Channel.size
  cases c.ord with
  | none => exact Nat.zero_le _
  | some o => cases o <;> decide

/-- A polyline has at most one point for each bin, so at most `PMAX` (R7, R39). -/
theorem Channel.headCurve_length_le (F : NumFormat) (stride : Nat) (bt bw bh b f : Word) (c : Channel) :
    (c.headCurve F stride bt bw bh b f).length ≤ pmax := by
  have h := genPathFrom_length_le (Numeric.arith F) (c.mf.front []) (c.size / 2) stride bt bw bh b f (c.size / 2) 0
  have hsize := c.size_le
  rw [Channel.headCurve, genPath, pmax]
  omega

theorem pointsOfWords_length (ws : List Word) : (pointsOfWords ws).length = ws.length / 2 := by
  induction ws using pointsOfWords.induct with
  | case1 x y ws ih => simp only [pointsOfWords, List.length_cons, ih]; omega
  | case2 ws h =>
    rcases ws with _ | ⟨x, _ | ⟨y, ws⟩⟩
    · rfl
    · simp [pointsOfWords]
    · exact absurd rfl (h x y ws)

/-- An accepted payload is an element of the FIFO's kind and shape (R122, R125). -/
theorem Channel.fits_of_itemOfPayload {c : Channel} {kind : FifoKind} {payload : List Word} {x : Item}
    (h : itemOfPayload kind (c.fifo kind).shape payload = some x) : x.kind = kind ∧ c.Fits x := by
  cases kind with
  | sf | mf =>
    rcases of_ite_eq h with ⟨hlen, h⟩ | ⟨-, h⟩
    · cases h
      exact ⟨rfl, hlen⟩
    · cases h
  | cf =>
    cases payload with
    | nil => cases h
    | cons w ws =>
      rcases of_ite_eq h with ⟨⟨-, hnp, hlen⟩, h⟩ | ⟨-, h⟩
      · cases h
        refine ⟨rfl, ?_⟩
        change (pointsOfWords ws).length ≤ pmax
        rw [pointsOfWords_length]
        omega
      · cases h

/-! ## Chains of operations on one channel -/

namespace Channel

variable {cmax : Nat} {fit quiet : Prop} {p : Port} {c : Channel}

/-- A whole push (R125, R76). -/
theorem moves_push {x : Item} (hk : x.kind.producer = p) (hp : (c.fifo x.kind).prepared = true)
    (hf : fit → c.ShapesOk → c.Fits x) : Moves cmax fit quiet p c (c.push x) := by
  unfold push
  split
  · exact .single (.countDrop x.kind hk hp)
  · next hfull =>
    have hcopy := copyIn_fifo c x x.kind
    refine .tail (.single (.copyIn x hk hp hf)) (.publish x.kind hk ?_ ?_)
    · rw [hcopy]
      exact hp
    · rw [hcopy]
      exact Bool.eq_false_iff.2 hfull

/-- The pull and the shift of `RFEED`, for blocks no longer than the window (R142). -/
theorem op_feed (hp : c.sf.prepared = true) (hr : 0 < c.sf.readable) (hf : fit → c.sf.shape ≤ c.size) :
    Op cmax fit quiet .B c c.feed := by
  refine .takeBlock _ rfl hp hr fun hfit hc => ?_
  obtain ⟨-, hsf, -⟩ := hc
  exact Fifo.front_length_le fun xs hxs => (hsf xs hxs).trans_le (hf hfit)

/-- A spectrum of the window has the shape of a prepared `MF` (R36, R160). -/
theorem moves_analyse (cfg : Config) (f : Word) (hp : c.mf.prepared = true) :
    Moves cmax fit quiet .B c (c.analyse cfg f) := by
  refine moves_push rfl hp fun _ hc => ?_
  obtain ⟨hwin, -, -, hord, -⟩ := hc
  obtain ⟨o, ho, hshape⟩ := hord hp
  have hsize : c.size = o.size := by rw [size, ho]
  change (spectrumOf cfg c.size c.win f).length = c.mf.shape
  rw [spectrumOf_length, hwin, hsize, hshape]

/-- `CGEN` frees the spectrum and pushes its polyline (R186). -/
theorem moves_genCurve (F : NumFormat) (stride : Nat) (bt bw bh b f : Word) (hm : c.mf.prepared = true)
    (hr : 0 < c.mf.readable) (hc : c.cf.prepared = true) :
    Moves cmax fit quiet .B c (c.genCurve F stride bt bw bh b f) := by
  have hfree : Op cmax fit quiet .B c (c.free .mf) := .free .mf rfl hm hr
  exact (Relation.ReflTransGen.single hfree).trans
    (moves_push rfl hc fun _ _ => headCurve_length_le F stride bt bw bh b f c)

theorem moves_drainCurves (n : Nat) (hp : c.cf.prepared = true) (hn : n ≤ c.cf.readable) :
    Moves cmax fit quiet .B c (drainCurves n c) := by
  induction n generalizing c with
  | zero => exact .refl
  | succ n ih =>
    refine .head (.keepCurve rfl hp (by omega)) (ih hp ?_)
    change n ≤ c.cf.free.readable
    rw [Fifo.free_readable]
    omega

/-! ### What the phases of a `POLL` find -/

theorem feed_readable (c : Channel) : c.feed.sf.readable = c.sf.readable - 1 := Fifo.free_readable c.sf

theorem genCurve_mf_readable (F : NumFormat) (stride : Nat) (bt bw bh b f : Word) (c : Channel) :
    (c.genCurve F stride bt bw bh b f).mf.readable = c.mf.readable - 1 := by
  rw [genCurve_mf, Fifo.free_readable]

theorem genCurve_cf_prepared (F : NumFormat) (stride : Nat) (bt bw bh b f : Word) (c : Channel) :
    (c.genCurve F stride bt bw bh b f).cf.prepared = c.cf.prepared := (push_prepared _ _).2.2

theorem analyse_prepared (cfg : Config) (f : Word) (c : Channel) :
    (c.analyse cfg f).mf.prepared = c.mf.prepared ∧ (c.analyse cfg f).cf.prepared = c.cf.prepared :=
  (push_prepared c _).2

theorem analyse_size (cfg : Config) (f : Word) (c : Channel) : (c.analyse cfg f).size = c.size := by
  rw [size, size, analyse_ord]

theorem pollFeeds_prepared (cfg : Config) (f : Word) (n : Nat) (c : Channel) :
    (pollFeeds cfg f n c).mf.prepared = c.mf.prepared ∧ (pollFeeds cfg f n c).cf.prepared = c.cf.prepared := by
  induction n generalizing c with
  | zero => exact ⟨rfl, rfl⟩
  | succ n ih =>
    have ha := analyse_prepared cfg f c.feed
    exact ⟨(ih _).1.trans ha.1, (ih _).2.trans ha.2⟩

theorem pollCurves_cf_prepared (F : NumFormat) (stride : Nat) (a : PollArgs) (n : Nat) (c : Channel) :
    (pollCurves F stride a n c).cf.prepared = c.cf.prepared := by
  induction n generalizing c with
  | zero => rfl
  | succ n ih => exact (ih _).trans (genCurve_cf_prepared ..)

/-- Phase 1 of `POLL` (R250). -/
theorem moves_pollFeeds (cfg : Config) (f : Word) (n : Nat) (hs : c.sf.prepared = true) (hn : n ≤ c.sf.readable)
    (hm : c.mf.prepared = true) (hf : c.sf.shape ≤ c.size) :
    Moves cmax fit quiet .B c (pollFeeds cfg f n c) := by
  induction n generalizing c with
  | zero => exact .refl
  | succ n ih =>
    have hsf := analyse_sf cfg f c.feed
    have hfeed : Op cmax fit quiet .B c c.feed := op_feed hs (by omega) fun _ => hf
    have hspec : Moves cmax fit quiet .B c.feed (c.feed.analyse cfg f) := moves_analyse cfg f hm
    refine .head hfeed (hspec.trans (ih ?_ ?_ ?_ ?_))
    · rw [hsf]
      exact hs
    · rw [hsf, feed_readable]
      omega
    · exact (analyse_prepared cfg f c.feed).1.trans hm
    · rw [hsf, analyse_size]
      exact hf

/-- Phase 2 of `POLL` (R250). -/
theorem moves_pollCurves (F : NumFormat) (stride : Nat) (a : PollArgs) (n : Nat) (hm : c.mf.prepared = true)
    (hn : n ≤ c.mf.readable) (hc : c.cf.prepared = true) :
    Moves cmax fit quiet .B c (pollCurves F stride a n c) := by
  induction n generalizing c with
  | zero => exact .refl
  | succ n ih =>
    refine .trans (moves_genCurve F stride a.bt a.bw a.bh a.binWidthHz a.floorDb hm (by omega) hc) (ih ?_ ?_ ?_)
    · rw [genCurve_mf]
      exact hm
    · rw [genCurve_mf_readable]
      omega
    · exact (genCurve_cf_prepared ..).trans hc

end Channel

end Sys2Proof.Machine

/-! # Every command and every micro-step is a turn -/

namespace Sys2Proof.Machine

/-! ## What a command that passes its checks has found -/

theorem State.channelSel_isSome {s : State} {ch : BitVec 4} : (s.channelSel ch).isSome = true ↔ ch.toNat < s.nch := by
  unfold State.channelSel
  split
  · next h => exact iff_of_true rfl h
  · next h => exact iff_of_false Bool.false_ne_true h

theorem State.fifoSel_isSome {s : State} {ch : BitVec 4} {k : BitVec 2} (h : (s.fifoSel ch k).isSome = true) :
    ∃ kind, fifoKind k = some kind ∧ s.fifoAt ch k = (s.chan ch.toNat).fifo kind ∧ ch.toNat < s.nch := by
  obtain ⟨⟨c, kind⟩, hsel⟩ := Option.isSome_iff_exists.1 h
  obtain ⟨hkind, hch⟩ := (State.fifoSel_eq_some _ _ _ _ _).1 hsel
  exact ⟨kind, hkind, by rw [State.fifoAt, hkind], State.channelSel_isSome.1 (by rw [hch]; rfl)⟩

/-- The sample FIFO has kind number 0 (R91). -/
theorem fifoKind_eq_sf {k : BitVec 2} {kind : FifoKind} (h : fifoKind k = some kind) : kind = .sf ↔ k = 0 := by
  rcases kind_cases k with rfl | rfl | rfl | rfl <;> cases h <;> decide

theorem fifoKind_eq_mf {k : BitVec 2} {kind : FifoKind} (h : fifoKind k = some kind) : kind = .mf ↔ k = 1 := by
  rcases kind_cases k with rfl | rfl | rfl | rfl <;> cases h <;> decide

/-- The port that may push is the producer (R123, R280). -/
theorem producer_of_legalOn {ch : BitVec 4} {k : BitVec 2} {kind : FifoKind} {item : List Word} {p : Port}
    (hkind : fifoKind k = some kind) (h : legalOn (.fpush ch k item) p = true) : kind.producer = p := by
  by_cases hk : k = 0
  · rw [(fifoKind_eq_sf hkind).2 hk]
    simp only [legalOn, if_pos hk] at h
    exact (eq_of_beq h).symm
  · rw [Channel.producer_eq_B.2 fun e => hk ((fifoKind_eq_sf hkind).1 e)]
    simp only [legalOn, if_neg hk] at h
    exact (eq_of_beq h).symm

/-- The shape `FPREP MF` latches is that of the order (R36, R124). -/
theorem State.latchedShape_mf {s : State} {ch : Nat} (h : (s.chan ch).ord.isSome = true) :
    ∃ o, (s.chan ch).ord = some o ∧ s.latchedShape ch .mf = o.size / 2 := by
  obtain ⟨o, ho⟩ := Option.isSome_iff_exists.1 h
  exact ⟨o, ho, by rw [State.latchedShape, ho]⟩

namespace State

section

variable {fit : Prop} {quiet : Nat → Prop} {s : State}

/-! ## Ring buffer commands -/

theorem turned_beginPush {c : Nat} {x : Item} (hn : c < s.nch) (hk : x.kind.producer = s.cur)
    (hp : ((s.chan c).fifo x.kind).prepared = true) (hf : (s.chan c).Fits x) :
    Turned fit quiet s.cur s (s.beginPush c x) := by
  have hmoves := Channel.moves_push (cmax := s.cfg.cmax) (fit := fit) (quiet := quiet c) hk hp fun _ _ => hf
  by_cases hwhole : ((s.chan c).fifo x.kind).full = true ∨ s.turn.split = false
  · rw [beginPush_whole s c x hn hwhole]
    exact .finish (.modChan c _ fun _ => hmoves) _
  · obtain ⟨hfull, hsplit⟩ := not_or.1 hwhole
    have hcut : s.beginPush c x = s.setBusy (.pushCopy c x) := by simp [beginPush, hfull, hsplit]
    rw [hcut]
    exact .setBusy .refl (microOk_pushCopy.2 ⟨hk, hn, hp, Bool.eq_false_iff.2 hfull⟩) fun _ => hf

theorem turned_beginPull {c : Nat} {k : FifoKind} (hn : c < s.nch) (hb : s.cur = .B)
    (hp : ((s.chan c).fifo k).prepared = true) : Turned fit quiet s.cur s (s.beginPull c k) := by
  unfold beginPull
  split_ifs with hempty hsplit
  · exact .finish .refl _
  · refine .setBusy .refl ?_ fun _ => trivial
    rw [hb]
    exact ⟨hn, hp, Nat.pos_of_ne_zero hempty⟩
  · rw [pullFree, Channel.front_kind]
    exact .finish (.modChan c _ fun _ => .single (.free k hb hp (Nat.pos_of_ne_zero hempty))) _

theorem turned_beginFeed {c : Nat} (hn : c < s.nch) (hb : s.cur = .B) (hp : (s.chan c).sf.prepared = true)
    (hf : (s.chan c).sf.shape ≤ (s.chan c).size) : Turned fit quiet s.cur s (s.beginFeed c) := by
  unfold beginFeed
  split_ifs with hempty hsplit
  · exact .finish .refl _
  · refine .setBusy .refl ?_ fun _ => hf
    rw [hb]
    exact ⟨hn, hp, Nat.pos_of_ne_zero hempty⟩
  · have hfeed := Channel.op_feed (cmax := s.cfg.cmax) (fit := fit) (quiet := quiet c) hp (Nat.pos_of_ne_zero hempty)
      fun _ => hf
    exact .finish (.modChan c _ fun _ => .single (hb ▸ hfeed)) _

/-! ## `PROC` -/

/-- `PROC` writes the stage states of every channel, and nothing else of it (R214). -/
theorem chan_processChannels (A : Arith Word) (co : CoeffSet Word) (n : Nat) (xs : List Word) (ch : Nat) :
    ∃ z, ({ s with chans := (processChannels A co n s.chans xs).2 } : State).chan ch = { s.chan ch with z := z } := by
  by_cases hn : ch < s.nch
  · rw [nch] at hn
    rw [processChannels_eq A co n (Channel.afterReset s.cfg.num)]
    refine ⟨(processSamples A co (s.chan ch).z (channelSlice n xs ch)).2, ?_⟩
    simp only [chan]
    rw [List.getD_eq_getElem _ _ (by simpa using hn), List.getElem_map, List.getElem_range]
  · have hlen : (processChannels A co n s.chans xs).2.length ≤ ch := by
      rw [processChannels_length]
      exact Nat.le_of_not_lt hn
    refine ⟨(s.chan ch).z, ?_⟩
    simp only [chan]
    rw [List.getD_eq_default _ _ hlen, List.getD_eq_default _ _ (Nat.le_of_not_lt hn)]

theorem turned_runProc {u : State} (n : Nat) (xs : List Word) (ha : s.cur = .A) (hm : Moved fit quiet s.cur s u) :
    Turned fit quiet s.cur s (u.runProc n xs) := by
  refine .finish (hm.trans (u := { u with chans := (processChannels (Numeric.arith u.cfg.num) u.act n u.chans xs).2 })
    ⟨rfl, rfl, rfl, processChannels_length .., fun ch => ?_⟩) _
  obtain ⟨z, hz⟩ := chan_processChannels (s := u) (Numeric.arith u.cfg.num) u.act n xs ch
  rw [hz]
  exact .single (.process z ha)

/-! ## `POLL` -/

/-- Phase 3 of `POLL` (R250). -/
theorem turned_pollFinish {u : State} {c : Nat} (hb : s.cur = .B) (hm : Moved fit quiet s.cur s u)
    (hp : (u.chan c).cf.prepared = true) : Turned fit quiet s.cur s (u.pollFinish c) := by
  refine .finish (hm.trans (.modChan c _ fun _ => ?_)) _
  rw [hb]
  exact Channel.moves_drainCurves _ hp le_rfl

theorem turned_pollRun {a : PollArgs} (hn : a.ch < s.nch) (hb : s.cur = .B) (hs : (s.chan a.ch).sf.prepared = true)
    (hm : (s.chan a.ch).mf.prepared = true) (hc : (s.chan a.ch).cf.prepared = true)
    (hf : (s.chan a.ch).sf.shape ≤ (s.chan a.ch).size) :
    Turned fit quiet s.cur s (s.pollRun a (s.chan a.ch).sf.readable) := by
  have hprep := Channel.pollFeeds_prepared s.cfg a.floorDb (s.chan a.ch).sf.readable (s.chan a.ch)
  have h1 : Moved fit quiet s.cur s
      (s.modChan a.ch fun x => x.pollFeeds s.cfg a.floorDb (s.chan a.ch).sf.readable) := by
    rw [hb]
    exact .modChan _ _ fun _ => Channel.moves_pollFeeds _ _ _ hs le_rfl hm hf
  refine turned_pollFinish hb (h1.trans (.modChan _ _ fun _ => ?_)) ?_
  · rw [hb, chan_modChan_same _ _ _ hn]
    exact Channel.moves_pollCurves _ _ _ _ (hprep.1.trans hm) le_rfl (hprep.2.trans hc)
  · rw [chan_modChan_same _ _ _ (by rwa [modChan_nch]), Channel.pollCurves_cf_prepared, chan_modChan_same _ _ _ hn]
    exact hprep.2.trans hc

end

end State

end Sys2Proof.Machine

namespace Sys2Proof.Machine

namespace State

section

variable {fit : Prop} {quiet : Nat → Prop} {s t : State}

/-! ## Commands -/

/-- The effect of a command that passes its checks is a turn of the port that issued it. `quiet` may be any fact that
holds of a channel with no push of agent A into its sample FIFO in progress. -/
theorem turned_effect (hq : ∀ ch, s.pushInFlight ch = false → quiet ch) {i : Instr} (hc : causeOf i s = none)
    (he : effect i s = .next t) : Turned fit quiet s.cur s t := by
  obtain ⟨hsel, hlegal, hprep, hwritten, hop⟩ := (causeOf_eq_none _ _).1 hc
  cases i with
  | fprep ch k cap =>
    obtain ⟨kind, hkind, -, hn⟩ := fifoSel_isSome hsel
    have hb : s.cur = .B := eq_of_beq hlegal
    simp only [operandsOk, Bool.and_eq_true, bne_iff_ne, decide_eq_true_eq] at hop
    simp only [effect, hkind] at he
    rcases of_ite_eq he with ⟨-, he⟩ | ⟨hopen, he⟩
    · cases he
    · cases he
      refine .finish (.modChan _ _ fun _ => .single (.prepare _ _ _ _ hb ?_ hop.2 ?_ ?_)) _
      · exact Nat.pos_of_ne_zero fun h0 => hop.1 (BitVec.eq_of_toNat_eq h0)
      · rintro rfl
        have hk := (fifoKind_eq_mf hkind).1 rfl
        subst hk
        exact latchedShape_mf hprep
      · rintro rfl
        exact hq _ (by simpa using hopen)
  | fpush ch k item =>
    obtain ⟨kind, hkind, hfifo, hn⟩ := fifoSel_isSome hsel
    simp only [preparedOk, hfifo] at hprep
    simp only [effect, hkind] at he
    simp only [operandsOk, hkind, hfifo] at hop
    obtain ⟨x, hx⟩ := Option.isSome_iff_exists.1 hop
    obtain ⟨rfl, hfits⟩ := Channel.fits_of_itemOfPayload hx
    simp only [hx] at he
    cases he
    exact turned_beginPush hn (producer_of_legalOn hkind hlegal) hprep hfits
  | fpull ch k =>
    obtain ⟨kind, hkind, hfifo, hn⟩ := fifoSel_isSome hsel
    simp only [preparedOk, hfifo] at hprep
    simp only [effect, hkind] at he
    cases he
    exact turned_beginPull hn (eq_of_beq hlegal) hprep
  | favail ch k | fovf ch k =>
    obtain ⟨kind, hkind, -, -⟩ := fifoSel_isSome hsel
    simp only [effect, hkind] at he
    cases he
    exact .finish .refl _
  | chord ch ord =>
    simp only [operandsOk, ← orderOf_isSome] at hop
    obtain ⟨o, ho⟩ := Option.isSome_iff_exists.1 hop
    simp only [effect, ho] at he
    cases he
    exact .finish (.modChan _ _ fun _ => .single (.changeOrder _ o (eq_of_beq hlegal))) _
  | rfeed ch =>
    simp only [preparedOk, Bool.and_eq_true] at hprep
    cases he
    exact turned_beginFeed (channelSel_isSome.1 hsel) (eq_of_beq hlegal) hprep.1 (of_decide_eq_true hop)
  | spec ch floorDb =>
    have hb : s.cur = .B := eq_of_beq hlegal
    simp only [preparedOk, Bool.and_eq_true] at hprep
    cases he
    refine .finish (.modChan _ _ fun _ => ?_) _
    rw [hb]
    exact Channel.moves_analyse _ _ hprep.2
  | cgen ch bx bt bw bh binWidthHz floorDb =>
    have hb : s.cur = .B := eq_of_beq hlegal
    simp only [preparedOk, Bool.and_eq_true] at hprep
    obtain ⟨⟨-, hmf⟩, hcf⟩ := hprep
    rcases of_ite_eq he with ⟨-, he⟩ | ⟨hempty, he⟩
    · cases he
      exact .finish .refl _
    · cases he
      refine .finish (.modChan _ _ fun _ => ?_) _
      rw [hb]
      exact Channel.moves_genCurve _ _ _ _ _ _ _ hmf (Nat.pos_of_ne_zero hempty) hcf
  | cget ch =>
    have hb : s.cur = .B := eq_of_beq hlegal
    cases he
    refine .finish (.modChan _ _ fun _ => ?_) _
    rw [hb]
    exact Channel.moves_drainCurves _ hprep le_rfl
  | rdcrv ch =>
    cases he
    exact .finish .refl _
  | ccoef fs | apply | snap | tclr =>
    cases he
    exact .finish (.of_frame (by simp)) _
  | proc n samples =>
    have ha : s.cur = .A := eq_of_beq hlegal
    have htake : Moved fit quiet s.cur s s.takeCoeffs := .of_frame (by simp)
    rcases of_ite_eq he with ⟨-, he⟩ | ⟨-, he⟩
    · cases he
      exact .setBusy htake (microOk_procRun.2 ha) fun _ => trivial
    · cases he
      exact turned_runProc n.toNat samples ha htake
  | rdcoef =>
    obtain ⟨c, hnewc⟩ := Option.isSome_iff_exists.1 hprep
    simp only [effect, hnewc] at he
    cases he
    exact .finish .refl _
  | wrr r v =>
    cases hr : regOf s.nch r with
    | none => simp [selectorsOk, hr] at hsel
    | some reg =>
      simp only [effect, hr] at he
      cases he
      exact .finish (.of_frame (writeReg_frame s reg v)) _
  | rdr r =>
    obtain ⟨reg, hr⟩ := Option.isSome_iff_exists.1 hsel
    simp only [writtenOk, hr] at hwritten
    obtain ⟨v, hv⟩ := Option.isSome_iff_exists.1 hwritten
    simp only [effect, hr, hv] at he
    cases he
    exact .finish .refl _
  | tick fs =>
    have hb : s.cur = .B := eq_of_beq hlegal
    rcases of_ite_eq he with ⟨-, he⟩ | ⟨-, he⟩
    · cases he
      exact .finish .refl _
    · rcases of_ite_eq he with ⟨-, he⟩ | ⟨-, he⟩
      · cases he
        refine .setBusy (.of_frame (by simp)) ?_ fun _ => trivial
        rw [hb]
        exact trivial
      · cases he
        exact .finish (.of_frame (by simp)) _
  | poll ch fs bx bt bw bh =>
    have hb : s.cur = .B := eq_of_beq hlegal
    have hn : ch.toNat < s.nch := channelSel_isSome.1 hsel
    have hsize : (s.chan ch.toNat).sf.shape ≤ (s.chan ch.toNat).size := of_decide_eq_true hop
    simp only [preparedOk, Bool.and_eq_true] at hprep
    obtain ⟨⟨⟨-, hsf⟩, hmf⟩, hcf⟩ := hprep
    rcases of_ite_eq he with ⟨-, he⟩ | ⟨-, he⟩
    · cases he
      refine .setBusy .refl ?_ fun _ => hsize
      rw [hb]
      exact ⟨⟨hn, hsf, le_rfl⟩, ⟨hn, hmf, Nat.zero_le _⟩, hn, hcf, Nat.zero_le _⟩
    · cases he
      exact turned_pollRun hn hb hsf hmf hcf hsize

/-! ## Micro-steps -/

/-- A micro-step of a command in progress is a turn, from what the command finds. -/
theorem turned_microStep {m : Micro} (hm : s.MicroOk s.cur m)
    (hfit : fit → (∀ ch, (s.chan ch).ShapesOk) ∧ s.MicroFits m) : Turned fit quiet s.cur s (s.microStep m) := by
  cases m with
  | pushCopy ch x =>
    obtain ⟨hk, hn, hp, hr⟩ := microOk_pushCopy.1 hm
    have hcopy := Channel.copyIn_fifo (s.chan ch) x x.kind
    refine .setBusy (.modChan ch _ fun _ => .single (.copyIn x hk hp fun hf _ => (hfit hf).2)) ?_ fun _ => trivial
    exact microOk_pushPublish.2 ⟨hk, canPush_modChan hn (by rwa [hcopy]) (by rwa [hcopy])⟩
  | pushPublish ch k =>
    obtain ⟨hk, hn, hp, hr⟩ := microOk_pushPublish.1 hm
    exact .finish (.modChan ch _ fun _ => .single (.publish k hk hp hr)) _
  | procRun n xs => exact turned_runProc n xs (microOk_procRun.1 hm) .refl
  | pullCopy ch k =>
    obtain ⟨hb, hok⟩ := hm.ofB id
    refine .setBusy .refl ?_ fun _ => trivial
    rw [hb]
    change s.CanPull ch ((s.chan ch).front k).kind 1
    rwa [Channel.front_kind]
  | pullFree ch x =>
    obtain ⟨hb, -, hp, hr⟩ := hm.ofB id
    exact .finish (.modChan ch _ fun _ => .single (.free x.kind hb hp hr)) _
  | feedCopy ch =>
    obtain ⟨hb, hok⟩ := hm.ofB id
    refine .setBusy .refl ?_ fun hf => ?_
    · rw [hb]
      exact hok
    · obtain ⟨hshapes, hsize⟩ := hfit hf
      obtain ⟨-, hsf, -⟩ := hshapes ch
      exact Fifo.front_length_le fun xs hxs => (hsf xs hxs).trans_le hsize
  | feedFree ch blk =>
    obtain ⟨hb, -, hp, hr⟩ := hm.ofB id
    exact .finish (.modChan ch _ fun _ => .single (.takeBlock blk hb hp hr fun hf _ => (hfit hf).2)) _
  | tickLatch fs | tickDesign fs =>
    obtain ⟨hb, -⟩ := hm.ofB id
    refine .setBusy (.of_frame (by simp)) ?_ fun _ => trivial
    rw [hb]
    exact trivial
  | tickPost => exact .finish (.of_frame (by simp)) _
  | pollFeed a n =>
    obtain ⟨hb, ⟨hn, hsf, hr⟩, ⟨-, hmf, -⟩, -, hcf, -⟩ := hm.ofB id
    cases n with
    | zero =>
      refine .setBusy .refl ?_ fun _ => trivial
      rw [hb]
      exact ⟨⟨hn, hmf, le_rfl⟩, hn, hcf, Nat.zero_le _⟩
    | succ n =>
      refine .setBusy (.modChan a.ch _ fun _ => ?_) ?_ fun hf => ?_
      · rw [hb]
        exact .single (Channel.op_feed hsf (Nat.lt_of_lt_of_le n.succ_pos hr) fun hf => (hfit hf).2)
      · have hrest : n ≤ (s.chan a.ch).feed.sf.readable := by
          rw [Channel.feed_readable]
          exact Nat.le_sub_one_of_lt hr
        rw [hb]
        exact ⟨canPull_modChan hn hsf hrest, canPull_modChan hn hmf (Nat.zero_le _), canPull_modChan hn hcf (Nat.zero_le _)⟩
      · rw [MicroFits, chan_modChan_same _ _ _ hn]
        exact (hfit hf).2
  | pollSpec a n =>
    obtain ⟨hb, ⟨hn, hsf, hr⟩, ⟨-, hmf, -⟩, -, hcf, -⟩ := hm.ofB id
    have hprep := Channel.analyse_prepared s.cfg a.floorDb (s.chan a.ch)
    have hsame := Channel.analyse_sf s.cfg a.floorDb (s.chan a.ch)
    refine .setBusy (.modChan a.ch _ fun _ => ?_) ?_ fun hf => ?_
    · rw [hb]
      exact Channel.moves_analyse _ _ hmf
    · have hsf' : ((s.chan a.ch).analyse s.cfg a.floorDb).fifo .sf = (s.chan a.ch).fifo .sf := congrArg Fifo.view hsame
      rw [hb]
      exact ⟨canPull_modChan hn (by rwa [hsf']) (by rwa [hsf']), canPull_modChan hn (hprep.1.trans hmf) (Nat.zero_le _),
        canPull_modChan hn (hprep.2.trans hcf) (Nat.zero_le _)⟩
    · rw [MicroFits, chan_modChan_same _ _ _ hn, hsame, Channel.analyse_size]
      exact (hfit hf).2
  | pollCurve a n =>
    obtain ⟨hb, ⟨hn, hmf, hr⟩, -, hcf, -⟩ := hm.ofB id
    cases n with
    | zero => exact turned_pollFinish hb .refl hcf
    | succ n =>
      refine .setBusy (.modChan a.ch _ fun _ => ?_) ?_ fun _ => trivial
      · rw [hb]
        exact Channel.moves_genCurve _ _ _ _ _ _ _ hmf (Nat.lt_of_lt_of_le n.succ_pos hr) hcf
      · have hsame := Channel.genCurve_mf s.cfg.num s.stride.toNat a.bt a.bw a.bh a.binWidthHz a.floorDb (s.chan a.ch)
        rw [hb]
        refine ⟨canPull_modChan hn ?_ ?_, canPull_modChan hn ((Channel.genCurve_cf_prepared ..).trans hcf) (Nat.zero_le _)⟩
        · rw [Channel.fifo, hsame]
          exact hmf
        · rw [Channel.fifo, hsame]
          exact (Nat.le_sub_one_of_lt hr).trans_eq (Fifo.free_readable (s.chan a.ch).mf).symm

end

end State

end Sys2Proof.Machine

/-! # The invariants along every step (R36, R37, R39, R43) -/

namespace Sys2Proof.Machine

namespace State

variable {s t : State}

/-! ## What another agent's turn leaves of a command in progress -/

theorem CanPull.kept {ch n : Nat} {k : FifoKind} (h : s.CanPull ch k n) (hn : t.nch = s.nch)
    (hk : Channel.KeptByA (s.chan ch) (t.chan ch)) : t.CanPull ch k n := by
  obtain ⟨hch, hp, hr⟩ := h
  obtain ⟨-, hmf, hcf, hprepared, -, hreadable⟩ := hk
  refine ⟨hn ▸ hch, ?_⟩
  cases k with
  | sf => exact ⟨hprepared.trans hp, hr.trans hreadable⟩
  | mf => exact ⟨(congrArg Fifo.prepared hmf).trans hp, hr.trans_eq (congrArg Fifo.readable hmf).symm⟩
  | cf => exact ⟨(congrArg Fifo.prepared hcf).trans hp, hr.trans_eq (congrArg Fifo.readable hcf).symm⟩

theorem CanPush.keptByA {ch : Nat} {k : FifoKind} (h : s.CanPush ch k) (hne : k ≠ .sf) (hn : t.nch = s.nch)
    (hk : Channel.KeptByA (s.chan ch) (t.chan ch)) : t.CanPush ch k := by
  obtain ⟨-, hmf, hcf, -⟩ := hk
  have hfifo : (t.chan ch).fifo k = (s.chan ch).fifo k := by
    cases k with
    | sf => exact absurd rfl hne
    | mf => exact congrArg Fifo.view hmf
    | cf => exact congrArg Fifo.view hcf
  rwa [CanPush, hn, hfifo]

theorem CanPush.keptByB {ch : Nat} (h : s.CanPush ch .sf) (hn : t.nch = s.nch)
    (hk : Channel.KeptByB (s.chan ch) (t.chan ch)) : t.CanPush ch .sf := by
  obtain ⟨hch, hp, hr⟩ := h
  obtain ⟨hprepared, -, hroom⟩ := hk
  exact ⟨hn ▸ hch, hprepared.trans hp, hroom hr⟩

/-- What agent B's command in progress has found stays through the turns of the others. -/
theorem MicroOkB.kept {m : Micro} (h : s.MicroOkB m) (hn : t.nch = s.nch)
    (hk : ∀ ch, Channel.KeptByA (s.chan ch) (t.chan ch)) : t.MicroOkB m := by
  cases m with
  | pushCopy ch x =>
    obtain ⟨hne, hpush⟩ := h
    exact ⟨hne, hpush.keptByA hne hn (hk ch)⟩
  | pushPublish ch k =>
    obtain ⟨hne, hpush⟩ := h
    exact ⟨hne, hpush.keptByA hne hn (hk ch)⟩
  | procRun n xs => exact h
  | pullCopy ch k | pullFree ch x | feedCopy ch | feedFree ch blk => exact CanPull.kept h hn (hk ch)
  | tickLatch fs | tickDesign fs | tickPost => trivial
  | pollFeed a n | pollSpec a n =>
    obtain ⟨hsf, hmf, hcf⟩ := h
    exact ⟨hsf.kept hn (hk a.ch), hmf.kept hn (hk a.ch), hcf.kept hn (hk a.ch)⟩
  | pollCurve a n =>
    obtain ⟨hmf, hcf⟩ := h
    exact ⟨hmf.kept hn (hk a.ch), hcf.kept hn (hk a.ch)⟩

theorem MicroFits.keptByA {m : Micro} (h : s.MicroFits m) (hk : ∀ ch, Channel.KeptByA (s.chan ch) (t.chan ch)) :
    t.MicroFits m := by
  have hfeed : ∀ ch, (t.chan ch).size = (s.chan ch).size ∧ (t.chan ch).sf.shape = (s.chan ch).sf.shape := fun ch => by
    obtain ⟨hord, -, -, -, hshape, -⟩ := hk ch
    exact ⟨by rw [Channel.size, Channel.size, hord], hshape⟩
  cases m with
  | pushCopy ch x =>
    obtain ⟨-, hmf, -, -, hshape, -⟩ := hk ch
    cases x with
    | samples xs => exact Eq.trans h hshape.symm
    | spectrum db => exact Eq.trans h (congrArg Fifo.shape hmf).symm
    | curve ps => exact h
  | feedCopy ch =>
    rw [MicroFits, (hfeed ch).1, (hfeed ch).2]
    exact h
  | feedFree ch blk =>
    rw [MicroFits, (hfeed ch).1]
    exact h
  | pollFeed a n | pollSpec a n =>
    rw [MicroFits, (hfeed a.ch).1, (hfeed a.ch).2]
    exact h
  | _ => trivial

/-- A push of agent A in progress keeps its room, and its block keeps fitting, through the turns of the others. -/
theorem MicroOkA.kept {m : Micro} (h : s.MicroOkA m) (hb : s.ports.a.busy = some m) (hn : t.nch = s.nch)
    (hk : ∀ ch, s.pushInFlight ch = true → Channel.KeptByB (s.chan ch) (t.chan ch)) :
    t.MicroOkA m ∧ (s.MicroFits m → t.MicroFits m) := by
  rcases h.cases with ⟨ch, xs, rfl, hpush⟩ | ⟨ch, rfl, hpush⟩ | ⟨n, xs, rfl⟩
  · have hkept := hk ch (by simp [pushInFlight, hb])
    refine ⟨hpush.keptByB hn hkept, fun hf => ?_⟩
    obtain ⟨-, hshape, -⟩ := hkept
    exact Eq.trans hf hshape.symm
  · exact ⟨hpush.keptByB hn (hk ch (by simp [pushInFlight, hb])), fun _ => trivial⟩
  · exact ⟨trivial, fun _ => trivial⟩

/-! ## The invariants, port by port -/

theorem fifoInv_iff : s.FifoInv ↔
    (∀ ch, (s.chan ch).FifosOk s.cfg.cmax) ∧ ∀ p m, (s.port p).busy = some m → s.MicroOk p m := by
  rw [FifoInv, forall_chan_iff s (Channel.afterReset_fifosOk _ _)]
  refine and_congr_right fun _ => ⟨?_, fun h => ⟨h .A, h .B, ?_⟩⟩
  · rintro ⟨ha, hb, hh⟩ p m hm
    cases p with
    | A => exact ha m hm
    | B => exact hb m hm
    | H => cases hh.symm.trans hm
  · exact Option.eq_none_iff_forall_ne_some.2 fun m hm => h .H m hm

theorem shapeInv_iff (hs : s.FifoInv) : s.ShapeInv ↔
    (∀ ch, (s.chan ch).ShapesOk) ∧ ∀ p m, (s.port p).busy = some m → s.MicroFits m := by
  obtain ⟨-, -, -, hh⟩ := hs
  rw [ShapeInv, forall_chan_iff s (Channel.afterReset_shapesOk _)]
  refine and_congr_right fun _ => ⟨?_, fun h => ⟨h .A, h .B⟩⟩
  rintro ⟨ha, hb⟩ p m hm
  cases p with
  | A => exact ha m hm
  | B => exact hb m hm
  | H => cases hh.symm.trans hm

/-! ## Agents' turns -/

/-- What the turn of agent `p` that a step takes does: operations on channels, its own port, and nothing of the commands
in progress of the others. -/
def AgentTurn (p : Port) (s t : State) : Prop :=
  s.ChansMoved s.ShapeInv (fun ch => s.pushInFlight ch = false) p t ∧
    (∀ q, q ≠ p → (t.port q).busy = (s.port q).busy) ∧ t.Waiting s.ShapeInv p

theorem turned_raise {fit : Prop} {quiet : Nat → Prop} (s : State) (c : Cause) (w : Word) :
    Turned fit quiet s.cur s (s.raise c w) :=
  .finish (t := s.latchErr c w) (.of_frame (by simp)) _

theorem EndsOrWaits.port_ne (h : s.EndsOrWaits t) {q : Port} (hq : q ≠ s.cur) : t.port q = s.port q := by
  rcases h with ⟨r, h⟩ | ⟨m, h⟩
  · exact (congrArg (Ports.get · q) h).trans (finish_port_ne s r q hq)
  · exact (congrArg (Ports.get · q) h).trans (port_setPort_ne s s.cur q _ hq)

/-- A turn taken after the words of its command have been consumed. -/
theorem AgentTurn.of_turned {v : State} (hcfg : v.cfg = s.cfg) (hchans : v.chans = s.chans)
    (hbusy : ∀ q, (v.port q).busy = (s.port q).busy)
    (h : Turned s.ShapeInv (fun ch => s.pushInFlight ch = false) v.cur v t) : AgentTurn v.cur s t := by
  have hch : ∀ ch, v.chan ch = s.chan ch := fun ch => by rw [chan, chan, hchans, hcfg]
  obtain ⟨⟨hcfg', hnch', hmoves⟩, hports, hwaits⟩ := h
  refine ⟨⟨hcfg'.trans hcfg, hnch'.trans (congrArg List.length hchans), fun ch => ?_⟩, fun q hq => ?_, hwaits⟩
  · rw [← hch, ← hcfg]
    exact hmoves ch
  · rw [hports.port_ne hq]
    exact hbusy q

theorem setStream_busy (s : State) (ws : List Word) (q : Port) :
    ((s.setStream ws).port q).busy = (s.port q).busy := by
  by_cases hq : q = s.cur
  · subst hq
    simp [setStream]
  · exact congrArg _ (port_setPort_ne s s.cur q _ hq)

theorem pushInFlight_setStream (s : State) (ws : List Word) (ch : Nat) :
    (s.setStream ws).pushInFlight ch = s.pushInFlight ch := by
  have hbusy : (s.setStream ws).ports.a.busy = s.ports.a.busy := setStream_busy s ws .A
  rw [pushInFlight, pushInFlight, hbusy]

/-- The state that a turn of port `p` begins in, with the events `es` still to come. -/
def withTurn (s : State) (p : Port) (sp : Bool) (es : List Event) : State :=
  { s with sched := es, turn := { port := p, split := sp } }

end State

/-- Every turn that a step takes is an agent's turn: a micro-step of what the invariant says is in progress, a command that
passes its checks, a refusal, or nothing. -/
theorem TurnTo.agentTurn {s t : State} {p : Port} {sp : Bool} {es : List Event} (hs : s.FifoInv)
    (ht : TurnTo s p (s.withTurn p sp es) t) : s.AgentTurn p t := by
  obtain ⟨-, hbusy⟩ := State.fifoInv_iff.1 hs
  cases ht with
  | micro m hb =>
    refine .of_turned (v := s.withTurn p sp es) rfl rfl (fun _ => rfl) ?_
    refine State.turned_microStep (hbusy p m hb) fun hshape => ?_
    obtain ⟨hshapes, hfits⟩ := (State.shapeInv_iff hs).1 hshape
    exact ⟨hshapes, hfits p m hb⟩
  | stutter hb =>
    exact ⟨⟨rfl, rfl, fun _ => .refl⟩, fun _ _ => rfl, fun m hm => by cases hb.symm.trans hm⟩
  | refuse hb ws c w =>
    exact .of_turned (v := (s.withTurn p sp es).setStream ws) rfl rfl (State.setStream_busy (s.withTurn p sp es) ws)
      (State.turned_raise _ c w)
  | run hb i rest t hd hc he =>
    refine .of_turned (v := (s.withTurn p sp es).setStream rest) rfl rfl
      (State.setStream_busy (s.withTurn p sp es) rest) (State.turned_effect (fun ch hq => ?_) hc he)
    rwa [State.pushInFlight_setStream] at hq

namespace State

variable {s t : State}

/-- The command in progress of any port still finds what it needs after a turn of agent `p`. -/
theorem AgentTurn.waiting {p : Port} (h : AgentTurn p s t) (hs : s.FifoInv) (q : Port) : t.Waiting s.ShapeInv q := by
  obtain ⟨⟨-, hnch, hmoves⟩, hothers, hwaits⟩ := h
  by_cases hq : q = p
  · subst hq
    exact hwaits
  · intro m hm
    rw [hothers q hq] at hm
    obtain ⟨-, hbusy⟩ := fifoInv_iff.1 hs
    have hok := hbusy q m hm
    have hfit : s.ShapeInv → s.MicroFits m := fun hshape => ((shapeInv_iff hs).1 hshape).2 q m hm
    cases q with
    | A =>
      have hkept := MicroOkA.kept (t := t) hok hm hnch fun ch hpush =>
        (hmoves ch).keptByB (Ne.symm hq) (by simp [hpush])
      exact ⟨hkept.1, hkept.2 ∘ hfit⟩
    | B =>
      have hkept : ∀ ch, Channel.KeptByA (s.chan ch) (t.chan ch) := fun ch => (hmoves ch).keptByA (Ne.symm hq)
      exact ⟨MicroOkB.kept hok hnch hkept, fun hshape => (hfit hshape).keptByA hkept⟩
    | H => exact hok.elim

theorem AgentTurn.fifoInv {p : Port} (h : AgentTurn p s t) (hs : s.FifoInv) : t.FifoInv := by
  obtain ⟨hfifos, -⟩ := fifoInv_iff.1 hs
  have hwaits := h.waiting hs
  obtain ⟨⟨hcfg, -, hmoves⟩, -⟩ := h
  refine fifoInv_iff.2 ⟨fun ch => ?_, fun q m hm => (hwaits q m hm).1⟩
  rw [hcfg]
  exact (hmoves ch).fifosOk (hfifos ch)

theorem AgentTurn.shapeInv {p : Port} (h : AgentTurn p s t) (hs : s.FifoInv) (hshape : s.ShapeInv) : t.ShapeInv := by
  obtain ⟨hshapes, -⟩ := (shapeInv_iff hs).1 hshape
  have hwaits := h.waiting hs
  have ht := h.fifoInv hs
  obtain ⟨⟨-, -, hmoves⟩, -⟩ := h
  exact (shapeInv_iff ht).2 ⟨fun ch => (hmoves ch).shapesOk hshape (hshapes ch), fun q m hm => (hwaits q m hm).2 hshape⟩

/-! ## Words that arrive, and the step -/

/-- Words that arrive leave every command in progress as it was (R21). -/
theorem receive_busy (s : State) (p q : Port) (ws : List Word) : ((s.receive p ws).port q).busy = (s.port q).busy := by
  by_cases hq : q = p
  · subst hq
    simp [receive]
  · exact congrArg _ (port_setPort_ne s p q _ hq)

theorem fifoInv_receive {es : List Event} {p : Port} {ws : List Word} (hs : s.FifoInv) :
    (State.receive { s with sched := es } p ws).FifoInv := by
  obtain ⟨hchans, hbusy⟩ := fifoInv_iff.1 hs
  refine fifoInv_iff.2 ⟨hchans, fun q m hm => ?_⟩
  rw [receive_busy] at hm
  have hok := hbusy q m hm
  cases q <;> exact hok

theorem shapeInv_receive {es : List Event} {p : Port} {ws : List Word} (hs : s.FifoInv) (h : s.ShapeInv) :
    (State.receive { s with sched := es } p ws).ShapeInv := by
  obtain ⟨hchans, hbusy⟩ := (shapeInv_iff hs).1 h
  refine (shapeInv_iff (fifoInv_receive hs)).2 ⟨hchans, fun q m hm => ?_⟩
  rw [receive_busy] at hm
  exact hbusy q m hm

end State

theorem step_fifoInv {s t : State} (hs : s.FifoInv) (h : step s = .next t) : t.FifoInv := by
  rcases step_cases s t h with ⟨es, -, rfl⟩ | ⟨p, ws, es, -, rfl⟩ | ⟨p, sp, es, -, ht⟩
  · exact resetFor_fifoInv s.cfg s.nch
  · exact State.fifoInv_receive hs
  · exact (ht.agentTurn hs).fifoInv hs

theorem step_shapeInv {s t : State} (hs : s.FifoInv) (hshape : s.ShapeInv) (h : step s = .next t) : t.ShapeInv := by
  rcases step_cases s t h with ⟨es, -, rfl⟩ | ⟨p, ws, es, -, rfl⟩ | ⟨p, sp, es, -, ht⟩
  · exact resetFor_shapeInv s.cfg s.nch
  · exact State.shapeInv_receive hs hshape
  · exact (ht.agentTurn hs).shapeInv hs hshape

/-- The cursors of a prepared FIFO that is well formed (R43). -/
theorem Channel.FifosOk.cursors {cmax : Nat} {c : Channel} (h : c.FifosOk cmax) {k : FifoKind}
    (hp : (c.fifo k).prepared = true) :
    (c.fifo k).rd ≤ (c.fifo k).wr ∧ (c.fifo k).wr - (c.fifo k).rd ≤ (c.fifo k).cap := by
  have hcursors : ∀ {α : Type} {q : Fifo α}, q.prepared = true → q.Ok cmax → q.rd ≤ q.wr ∧ q.wr - q.rd ≤ q.cap := by
    intro α q hq hok
    obtain ⟨-, -, -, hle, hcap, -⟩ := (Fifo.ok_prepared hq).1 hok
    exact ⟨hle, Nat.sub_le_iff_le_add'.2 hcap⟩
  obtain ⟨hsf, hmf, hcf⟩ := h
  cases k with
  | sf => exact hcursors (q := c.sf) hp hsf
  | mf => exact hcursors (q := c.mf) hp hmf
  | cf => exact hcursors (q := c.cf) hp hcf

/-- Settles O21: an agent's turn is a chain of operations on channels, each of which keeps the FIFOs well formed, and each
agent leaves the other's command in progress what it has found. -/
theorem fifoInvariant : Obligations.FifoInvariant := by
  intro s t hs h
  have ht := step_fifoInv hs h
  refine ⟨ht, fun c hc k hp => ?_⟩
  obtain ⟨hfifos, -⟩ := ht
  exact (hfifos c hc).cursors hp

/-- Settles O25: the operations of an agent's turn write elements of the FIFO's shape, and a window keeps its size. -/
theorem shapeInvariant : Obligations.ShapeInvariant := fun _ _ hs hshape h => step_shapeInv hs hshape h

end Sys2Proof.Machine

/-! # Steps, responses, `ERR` and `PCHG` (R21, R27, R41, R44, R66, R98) -/

namespace Sys2Proof.Machine

/-! ## One response for each command -/

namespace State

variable {s t : State}

/-- The current port at the end of a command or while it waits (R66, R98). -/
theorem EndsOrWaits.port_cur (h : s.EndsOrWaits t) :
    (t.port s.cur).stream = (s.port s.cur).stream ∧
      (((t.port s.cur).busy = none ∧ (t.port s.cur).pc = (s.port s.cur).pc + 1 ∧
          ∃ r, (t.port s.cur).out = r :: (s.port s.cur).out) ∨
        ((t.port s.cur).busy ≠ none ∧ (t.port s.cur).pc = (s.port s.cur).pc ∧
          (t.port s.cur).out = (s.port s.cur).out)) := by
  rcases h with ⟨r, h⟩ | ⟨m, h⟩
  · have hport := (congrArg (Ports.get · s.cur) h).trans (finish_port_cur s r)
    change t.port s.cur = _ at hport
    rw [hport]
    exact ⟨rfl, .inl ⟨rfl, rfl, r, rfl⟩⟩
  · have hport := (congrArg (Ports.get · s.cur) h).trans (setBusy_port_cur s m)
    change t.port s.cur = _ at hport
    rw [hport]
    exact ⟨rfl, .inr ⟨Option.some_ne_none m, rfl, rfl⟩⟩

theorem endsOrWaits_microStep (s : State) (m : Micro) : s.EndsOrWaits (s.microStep m) := by
  cases m with
  | pushCopy ch x => exact .setBusy rfl rfl _
  | pushPublish ch k => exact .finish rfl rfl _
  | pullCopy ch k => exact .setBusy rfl rfl _
  | pullFree ch x => exact .finish rfl rfl _
  | feedCopy ch => exact .setBusy rfl rfl _
  | feedFree ch blk => exact .finish rfl rfl _
  | procRun n xs => exact .finish (t := { s with chans := _ }) rfl rfl _
  | tickLatch fs => exact .setBusy (latchSettings_ports s) (latchSettings_turn s) _
  | tickDesign fs => exact .setBusy (tickDesign_ports s fs) (tickDesign_turn s fs) _
  | tickPost => exact .finish rfl rfl _
  | pollFeed a n =>
    cases n with
    | zero => exact .setBusy rfl rfl _
    | succ n => exact .setBusy rfl rfl _
  | pollSpec a n => exact .setBusy rfl rfl _
  | pollCurve a n =>
    cases n with
    | zero => exact .finish rfl rfl _
    | succ n => exact .setBusy rfl rfl _

end State

theorem exec_endsOrWaits {i : Instr} {s t : State} (h : exec i s = .next t) : s.EndsOrWaits t := by
  rcases exec_next i s t h with ⟨c, -, rfl⟩ | ⟨hc, he⟩
  · exact .finish (State.latchErr_ports s c i.word) (State.latchErr_turn s c i.word) _
  · obtain ⟨-, hports, -⟩ := State.turned_effect (fit := True) (quiet := fun _ => True) (fun _ _ => trivial) hc he
    exact hports

/-- Settles O10: every command and every micro-step ends with a response or waits with its next micro-step. -/
theorem oneResponsePerCommand : Obligations.OneResponsePerCommand :=
  ⟨fun _ _ _ h => ⟨fun _ hp => (exec_endsOrWaits h).port_ne hp, (exec_endsOrWaits h).port_cur⟩,
    fun m s => ⟨fun _ hp => (s.endsOrWaits_microStep m).port_ne hp, (s.endsOrWaits_microStep m).port_cur⟩⟩

/-! ## The fault record -/

theorem writeReg_err (s : State) (r : Reg) (v : Word) : (s.writeReg r v).err = s.err := by
  unfold State.writeReg
  split <;> simp

/-- No command that passes its checks touches `ERR` (R275). -/
theorem effect_err {i : Instr} {s t : State} (h : effect i s = .next t) : t.err = s.err := by
  by_cases hi : ∃ r v, i = .wrr r v
  · obtain ⟨r, v, rfl⟩ := hi
    cases hr : regOf s.nch r with
    | none =>
      simp only [effect, hr] at h
      cases h
      rfl
    | some reg =>
      simp only [effect, hr] at h
      cases h
      exact writeReg_err s reg v
  · exact congrArg (·.2.2.2.2.2) (effect_regs (fun r v e => hi ⟨r, v, e⟩) h)

/-- A refusal answers `FAULT` with the cause code (R272). -/
theorem raise_out (s : State) (c : Cause) (w : Word) :
    ((s.raise c w).port s.cur).out = respond .fault c.code.toNat :: (s.port s.cur).out := by
  have hport := (congrArg (Ports.get · s.cur) (State.raise_ports s c w)).trans (State.finish_port_cur s _)
  exact congrArg PortState.out hport

theorem setStream_out (s : State) (ws : List Word) : ((s.setStream ws).port s.cur).out = (s.port s.cur).out := by
  simp [State.setStream]

theorem respond_fault_value (c : Cause) : (respond .fault c.code.toNat).value = c.code.setWidth 28 := by
  cases c <;> rfl

/-- Settles O14: of all that a step can do, only a reset and a refusal while `ERR` is clear change `ERR`. -/
theorem errSticky : Obligations.ErrSticky := by
  intro s t h hne
  rcases step_cases s t h with ⟨es, hs, -⟩ | ⟨p, ws, es, -, rfl⟩ | ⟨p, sp, es, hs, ht⟩
  · exact .inl ⟨es, hs⟩
  · exact absurd rfl hne
  · refine .inr ?_
    change TurnTo s p (s.withTurn p sp es) t at ht
    cases ht with
    | micro m hb => exact absurd (congrArg (·.2.2.2.2.2) (State.regs_microStep (s.withTurn p sp es) m)) hne
    | stutter hb => exact absurd rfl hne
    | run hb i rest t hd hc he => exact absurd (effect_err he) hne
    | refuse hb ws c w =>
      cases hv : s.err.valid with
      | true => exact absurd (State.raise_err_of_valid ((s.withTurn p sp es).setStream ws) c w hv) hne
      | false =>
        rw [State.raise_err_of_clear ((s.withTurn p sp es).setStream ws) c w hv]
        exact ⟨rfl, rfl, p, sp, es, _, hs,
          (raise_out ((s.withTurn p sp es).setStream ws) c w).trans
            (congrArg _ (setStream_out (s.withTurn p sp es) ws)),
          rfl, respond_fault_value c⟩

/-! ## The changed flag -/

namespace State

@[simp] theorem runProc_pchg (s : State) (n : Nat) (xs : List Word) : (s.runProc n xs).pchg = s.pchg := rfl

@[simp] theorem beginPush_pchg (s : State) (c : Nat) (x : Item) : (s.beginPush c x).pchg = s.pchg := by
  unfold beginPush
  split_ifs <;> rfl

@[simp] theorem beginPull_pchg (s : State) (c : Nat) (k : FifoKind) : (s.beginPull c k).pchg = s.pchg := by
  unfold beginPull
  split_ifs <;> rfl

@[simp] theorem beginFeed_pchg (s : State) (c : Nat) : (s.beginFeed c).pchg = s.pchg := by
  unfold beginFeed
  split_ifs <;> rfl

@[simp] theorem pollRun_pchg (s : State) (a : PollArgs) (n : Nat) : (s.pollRun a n).pchg = s.pchg := rfl

@[simp] theorem tickPost_pchg (s : State) : s.tickPost.pchg = s.pchg := rfl

theorem microStep_pchg (s : State) (m : Micro) : (s.microStep m).pchg = s.pchg := by
  cases m with
  | tickLatch fs => exact latchSettings_pchg s
  | tickDesign fs => exact tickDesign_pchg s fs
  | pollFeed a n | pollCurve a n => cases n <;> rfl
  | _ => rfl

/-- A write of a parameter register sets `PCHG`, one of a configuration register leaves it (R27, R242). -/
theorem writeReg_pchg (s : State) (r : Reg) (v : Word) :
    (s.writeReg r v).pchg = (r.group == .parameter || s.pchg) := by
  unfold writeReg
  split
  · next h => simp [h]
  · next h => simp [h]

end State

/-- An accepted write of a register 0x00 to 0x08 sets `PCHG`, and one of another register leaves it (R24, R27). -/
theorem effect_wrr_pchg {r : BitVec 8} {v : Word} {s t : State} (hc : causeOf (.wrr r v) s = none)
    (h : effect (.wrr r v) s = .next t) : t.pchg = (decide (r.toNat ≤ 8) || s.pchg) := by
  obtain ⟨hsel, -⟩ := (causeOf_eq_none _ _).1 hc
  cases hr : regOf s.nch r with
  | none => simp [selectorsOk, hr] at hsel
  | some reg =>
    simp only [effect, hr] at h
    cases h
    rw [State.finish_pchg, State.writeReg_pchg]
    rcases regOf_group _ _ _ hr with ⟨hg, hn⟩ | ⟨hg, hn⟩ <;> simp [hg, hn]

theorem effect_tclr_pchg {s t : State} (h : effect .tclr s = .next t) : t.pchg = false := by
  cases h
  rfl

/-- A `TICK` clears `PCHG` in its first micro-step, or finds it clear (R248). -/
theorem effect_tick_pchg {fs : Word} {s t : State} (h : effect (.tick fs) s = .next t) : t.pchg = false := by
  rcases of_ite_eq h with ⟨hclear, h⟩ | ⟨-, h⟩
  · cases h
    simpa using hclear
  · rcases of_ite_eq h with ⟨-, h⟩ | ⟨-, h⟩ <;> cases h <;> simp

/-- The effects of all other commands are made of operations that leave `PCHG` alone. -/
theorem effect_pchg {i : Instr} {s t : State} (hw : ∀ r v, i ≠ .wrr r v) (hcl : i ≠ .tclr) (ht : ∀ fs, i ≠ .tick fs)
    (h : effect i s = .next t) : t.pchg = s.pchg := by
  cases i with
  | wrr r v => exact absurd rfl (hw r v)
  | tclr => exact absurd rfl hcl
  | tick fs => exact absurd rfl (ht fs)
  | _ =>
    simp only [effect] at h
    repeat' split at h
    all_goals cases h <;> simp

/-- `PCHG` after a command that passes its checks. -/
theorem accepted_pchg {i : Instr} {s t : State} (hc : causeOf i s = none) (h : effect i s = .next t) :
    (∀ r v, i = .wrr r v → r.toNat ≤ 8 → t.pchg = true) ∧ ((i = .tclr ∨ ∃ fs, i = .tick fs) → t.pchg = false) ∧
      (t.pchg ≠ s.pchg → (∃ r v, i = .wrr r v ∧ r.toNat ≤ 8) ∨ i = .tclr ∨ ∃ fs, i = .tick fs) := by
  refine ⟨?_, ?_, fun hne => ?_⟩
  · rintro r v rfl hr
    simp [effect_wrr_pchg hc h, hr]
  · rintro (rfl | ⟨fs, rfl⟩)
    · exact effect_tclr_pchg h
    · exact effect_tick_pchg h
  · by_contra hno
    simp only [not_or, not_exists, not_and] at hno
    obtain ⟨hw, hcl, ht⟩ := hno
    by_cases hi : ∃ r v, i = .wrr r v
    · obtain ⟨r, v, rfl⟩ := hi
      exact hne (by simp [effect_wrr_pchg hc h, hw r v rfl])
    · exact hne (effect_pchg (fun r v e => hi ⟨r, v, e⟩) hcl ht h)

/-- The bits of the words that flags are composed of. -/
theorem getLsbD_bitAt (i j : Nat) (b : Bool) : (bitAt i b).getLsbD j = (decide (j < 32) && decide (j = i) && b) := by
  cases b with
  | false => simp [bitAt]
  | true =>
    rw [bitAt, if_pos rfl, BitVec.getLsbD_shiftLeft, BitVec.getLsbD_one, Bool.eq_iff_iff]
    simp only [Bool.and_eq_true, Bool.not_eq_true', decide_eq_true_eq, decide_eq_false_iff_not, and_true]
    omega

/-- STATUS bit 0 shows `PCHG` (R26). -/
theorem statusWord_bit0 (s : State) : s.statusWord.getLsbD 0 = s.pchg := by
  simp only [State.statusWord, BitVec.getLsbD_or, getLsbD_bitAt]
  simp

/-- Settles O52: a command that passes its checks is one of the three that write `PCHG` or leaves it; a refusal and a
micro-step leave it. -/
theorem pchgRule : Obligations.PchgRule := by
  refine ⟨fun i s t h hc => ?_, fun i s t c h hc => ?_, fun m s => s.microStep_pchg m,
    fun s => ⟨s.statusWord, rfl, statusWord_bit0 s⟩, fun _ _ => rfl⟩
  · rcases exec_next i s t h with ⟨c, hc', -⟩ | ⟨-, he⟩
    · cases hc.symm.trans hc'
    · exact accepted_pchg hc he
  · rcases exec_next i s t h with ⟨c', -, rfl⟩ | ⟨hc', -⟩
    · exact State.raise_pchg s c' i.word
    · cases hc.symm.trans hc'

/-! ## Steps -/

/-- A turn is a step of its port from the state it begins in. -/
theorem step_turn {s : State} {p : Port} {sp : Bool} {es : List Event} (hs : s.sched = .turn p sp :: es) :
    step s = (s.withTurn p sp es).portStep := by
  unfold step
  rw [hs]
  rfl

theorem portStep_of_busy {s : State} {m : Micro} (h : (s.port s.cur).busy = some m) :
    s.portStep = .next (s.microStep m) := by
  simp only [State.portStep, h]

theorem portStep_of_decode {s : State} {i : Instr} {rest : List Word} (hb : (s.port s.cur).busy = none)
    (hd : decode s.nch (s.port s.cur).stream = .ok (i, rest)) : s.portStep = exec i (s.setStream rest) := by
  simp only [State.portStep, hb, hd]

/-- A port with no whole command has no step to take (R21, R62). -/
theorem portStep_of_wait {s : State} {e : DecodeError} (hb : (s.port s.cur).busy = none)
    (hd : decode s.nch (s.port s.cur).stream = .error e) (he : e = .noWord ∨ ∃ o n, e = .payloadMissing o n) :
    s.portStep = .next s := by
  rcases he with rfl | ⟨o, n, rfl⟩ <;> simp only [State.portStep, hb, hd]

/-- Settles O8: each kind of event has its equation. -/
theorem stepRunsDecoded : Obligations.StepRunsDecoded := by
  refine ⟨fun s p sp es i rest hs hb hd => ?_, fun s p sp es m hs hb => ?_, fun s p sp es e hs hb hd he => ?_,
    fun s p ws es hs => ?_, fun s hs => ?_⟩
  · rw [step_turn hs, portStep_of_decode (s := s.withTurn p sp es) hb hd, ← hb]
    rfl
  · rw [step_turn hs]
    exact portStep_of_busy (s := s.withTurn p sp es) hb
  · rw [step_turn hs]
    exact portStep_of_wait (s := s.withTurn p sp es) hb hd he
  · unfold step
    rw [hs]
    rfl
  · unfold step
    rw [hs]

/-! ## Reset -/

theorem resetZero_eq (F : NumFormat) : resetZero F = Numeric.ofRat F 0 := by
  cases F <;> rfl

theorem resetOne_eq (F : NumFormat) : resetOne F = Numeric.ofRat F 1 := by
  cases F with
  | binary32 =>
    have hone : Binary32.magnitude 1 1 = 0x3F800000 := rfl
    change 0x3F800000#32 = Binary32.rnd (.fin 1)
    simp [Binary32.rnd, hone]
  | other id t => rfl

theorem resetFloor_eq (F : NumFormat) : resetFloor F = Numeric.ofRat F (-48) := by
  cases F <;> rfl

/-- Settles O9: the reset state field by field, its words those of -48, 1 and 0 in every format. -/
theorem resetValues : Obligations.ResetValues := by
  intro s es hs
  have hstep : step s = .next (State.hardReset { s with sched := es }) := by
    unfold step
    rw [hs]
    rfl
  refine ⟨_, hstep, rfl, resetFor_nch s.cfg s.nch, rfl, rfl, resetFloor_eq s.cfg.num, rfl, rfl, rfl, rfl, rfl, rfl, ?_,
    fun c hc => ?_, rfl, fun p => ?_⟩
  · rw [← resetOne_eq, ← resetZero_eq]
    rfl
  · rw [eq_afterReset_of_mem hc, ← resetZero_eq]
    exact ⟨fun k => by cases k <;> rfl, rfl, rfl, rfl, rfl, rfl, rfl, rfl⟩
  · cases p <;> rfl

end Sys2Proof.Machine

/-! # What each agent owns of a channel (R63, R68, R77)

From the operations an agent's turn is a chain of: all that agent A leaves, and the stage states that the others leave. From
the commands and micro-steps of agent B: the sample FIFO but its read cursor, which only an `FPREP SF` writes. -/

namespace Sys2Proof.Machine

namespace Channel

/-! ## Channels -/

/-- What agent A's turns leave of a channel: all but the stage states and the write cursor, the slots and the overflow
counter of the sample FIFO. -/
def ownedByB (c : Channel) : Channel :=
  { c with sf := { c.sf with wr := 0, slots := [], ovf := 0 }, z := Nine.const { s1 := 0, s2 := 0 } }

/-- The sample FIFO but its read cursor, the one part of it that agent B moves unless it prepares it anew. -/
def producerSide (c : Channel) : Fifo (List Word) := { c.sf with rd := 0 }

section

variable {cmax : Nat} {fit quiet : Prop} {p : Port} {c c' : Channel}

theorem Op.ownedByB (h : Op cmax fit quiet p c c') (hp : p ≠ .B) : c'.ownedByB = c.ownedByB := by
  cases h using Op.elim with
  | countDrop k hk | publish k hk =>
    cases producer_ne_B.1 (hk.trans_ne hp)
    rfl
  | copyIn x hk =>
    cases x with
    | samples xs => rfl
    | _ => cases producer_ne_B.1 (hk.trans_ne hp)
  | process z => rfl
  | free k hb | takeBlock blk hb | keepCurve hb | prepare F cap shape k hb | changeOrder F o hb => exact absurd hb hp

/-- Only agent A's `PROC` writes stage states. -/
theorem Op.z_eq (h : Op cmax fit quiet p c c') (hp : p ≠ .A) : c'.z = c.z := by
  cases h using Op.elim with
  | countDrop k | publish k | free k | prepare F cap shape k => cases k <;> rfl
  | copyIn x => cases x <;> rfl
  | takeBlock | keepCurve | changeOrder => rfl
  | process z ha => exact absurd ha hp

theorem Moves.ownedByB (h : Moves cmax fit quiet p c c') (hp : p ≠ .B) : c'.ownedByB = c.ownedByB := by
  induction h with
  | refl => rfl
  | tail _ ho ih => exact (ho.ownedByB hp).trans ih

theorem Moves.z_eq (h : Moves cmax fit quiet p c c') (hp : p ≠ .A) : c'.z = c.z := by
  induction h with
  | refl => rfl
  | tail _ ho ih => exact (ho.z_eq hp).trans ih

end

/-! ### What the commands of agent B leave of the sample FIFO -/

theorem producerSide_congr {c c' : Channel} (h : c'.sf = c.sf) : c'.producerSide = c.producerSide := by
  rw [producerSide, producerSide, h]

theorem producerSide_countDrop {c : Channel} {k : FifoKind} (hk : k ≠ .sf) :
    (c.countDrop k).producerSide = c.producerSide := by
  cases k with
  | sf => exact absurd rfl hk
  | mf | cf => rfl

theorem producerSide_copyIn {c : Channel} {x : Item} (hx : x.kind ≠ .sf) :
    (c.copyIn x).producerSide = c.producerSide := producerSide_congr (copyIn_sf_of_ne hx)

theorem producerSide_publish {c : Channel} {k : FifoKind} (hk : k ≠ .sf) :
    (c.publish k).producerSide = c.producerSide := by
  cases k with
  | sf => exact absurd rfl hk
  | mf | cf => rfl

theorem producerSide_prepare {F : NumFormat} {c : Channel} {cap shape : Nat} {k : FifoKind} (hk : k ≠ .sf) :
    (c.prepare F cap shape k).producerSide = c.producerSide := by
  cases k with
  | sf => exact absurd rfl hk
  | mf | cf => rfl

@[simp] theorem producerSide_free (c : Channel) (k : FifoKind) : (c.free k).producerSide = c.producerSide := by
  cases k <;> rfl

@[simp] theorem producerSide_takeBlock (c : Channel) (blk : List Word) :
    (c.takeBlock blk).producerSide = c.producerSide := rfl

@[simp] theorem producerSide_feed (c : Channel) : c.feed.producerSide = c.producerSide := rfl

@[simp] theorem producerSide_changeOrder (F : NumFormat) (c : Channel) (o : Order) :
    (c.changeOrder F o).producerSide = c.producerSide := rfl

@[simp] theorem producerSide_analyse (cfg : Config) (f : Word) (c : Channel) :
    (c.analyse cfg f).producerSide = c.producerSide := producerSide_congr (analyse_sf cfg f c)

@[simp] theorem producerSide_genCurve (F : NumFormat) (stride : Nat) (bt bw bh b f : Word) (c : Channel) :
    (c.genCurve F stride bt bw bh b f).producerSide = c.producerSide := by
  unfold genCurve push
  split <;> rfl

@[simp] theorem producerSide_drainCurves (n : Nat) (c : Channel) : (drainCurves n c).producerSide = c.producerSide := by
  rw [drainCurves_rest]
  rfl

@[simp] theorem producerSide_pollFeeds (cfg : Config) (f : Word) (n : Nat) (c : Channel) :
    (pollFeeds cfg f n c).producerSide = c.producerSide := by
  induction n generalizing c with
  | zero => rfl
  | succ n ih => simp [pollFeeds, ih]

@[simp] theorem producerSide_pollCurves (F : NumFormat) (stride : Nat) (a : PollArgs) (n : Nat) (c : Channel) :
    (pollCurves F stride a n c).producerSide = c.producerSide := by
  induction n generalizing c with
  | zero => rfl
  | succ n ih => simp [pollCurves, ih]

end Channel

namespace State

/-- The sample FIFOs but their read cursors, channel by channel. -/
def producerSides (s : State) (ch : Nat) : Fifo (List Word) := (s.chan ch).producerSide

theorem producerSides_modChan {s : State} {c : Nat} {f : Channel → Channel}
    (h : ∀ x, (f x).producerSide = x.producerSide) : (s.modChan c f).producerSides = s.producerSides :=
  funext fun ch => chan_modChan_rel (fun x y => y.producerSide = x.producerSide) (fun _ => rfl) s c f (fun _ => h _) ch

theorem producerSides_congr {s t : State} (hcfg : t.cfg = s.cfg) (hchans : t.chans = s.chans) :
    t.producerSides = s.producerSides := by
  funext ch
  rw [producerSides, producerSides, chan, chan, hcfg, hchans]

theorem producerSides_beginPush {s : State} {c : Nat} {x : Item} (hx : x.kind ≠ .sf) :
    (s.beginPush c x).producerSides = s.producerSides := by
  unfold beginPush
  split_ifs
  · exact producerSides_modChan fun _ => Channel.producerSide_countDrop hx
  · rfl
  · exact (producerSides_modChan fun _ => Channel.producerSide_publish hx).trans
      (producerSides_modChan fun _ => Channel.producerSide_copyIn hx)

theorem producerSides_beginPull (s : State) (c : Nat) (k : FifoKind) :
    (s.beginPull c k).producerSides = s.producerSides := by
  unfold beginPull
  split_ifs
  · rfl
  · rfl
  · exact producerSides_modChan fun _ => Channel.producerSide_free _ _

theorem producerSides_beginFeed (s : State) (c : Nat) : (s.beginFeed c).producerSides = s.producerSides := by
  unfold beginFeed
  split_ifs
  · rfl
  · rfl
  · exact producerSides_modChan fun x => Channel.producerSide_takeBlock x _

theorem producerSides_pollFinish (s : State) (c : Nat) : (s.pollFinish c).producerSides = s.producerSides :=
  producerSides_modChan fun _ => Channel.producerSide_drainCurves _ _

theorem producerSides_pollRun (s : State) (a : PollArgs) (n : Nat) : (s.pollRun a n).producerSides = s.producerSides := by
  calc (s.pollRun a n).producerSides
      = _ := producerSides_pollFinish _ _
    _ = _ := producerSides_modChan fun _ => Channel.producerSide_pollCurves _ _ _ _ _
    _ = s.producerSides := producerSides_modChan fun _ => Channel.producerSide_pollFeeds _ _ _ _

/-- A micro-step of agent B moves no more of a sample FIFO than its read cursor. -/
theorem producerSides_microStep {s : State} {m : Micro} (hm : s.MicroOkB m) :
    (s.microStep m).producerSides = s.producerSides := by
  cases m with
  | pushCopy ch x => exact producerSides_modChan fun _ => Channel.producerSide_copyIn hm.1
  | pushPublish ch k => exact producerSides_modChan fun _ => Channel.producerSide_publish hm.1
  | pullCopy | feedCopy | tickPost => rfl
  | pullFree ch x => exact producerSides_modChan fun _ => Channel.producerSide_free _ _
  | feedFree ch blk => exact producerSides_modChan fun x => Channel.producerSide_takeBlock x blk
  | procRun n xs => exact hm.elim
  | tickLatch fs | tickDesign fs => exact producerSides_congr (by simp [microStep]) (by simp [microStep])
  | pollFeed a n =>
    cases n with
    | zero => rfl
    | succ n => exact producerSides_modChan fun _ => rfl
  | pollSpec a n => exact producerSides_modChan fun _ => Channel.producerSide_analyse _ _ _
  | pollCurve a n =>
    cases n with
    | zero => exact producerSides_pollFinish _ _
    | succ n => exact producerSides_modChan fun _ => Channel.producerSide_genCurve ..

end State

theorem legalOn_fpush_B {ch : BitVec 4} {k : BitVec 2} {item : List Word} (h : legalOn (.fpush ch k item) .B = true) :
    k ≠ 0 := by
  rintro rfl
  cases h

/-- A command of agent B other than `FPREP SF` moves no more of a sample FIFO than its read cursor. -/
theorem effect_producerSides {i : Instr} {s t : State} (hlegal : legalOn i .B = true)
    (hprep : ∀ ch cap, i ≠ .fprep ch 0 cap) (h : effect i s = .next t) : t.producerSides = s.producerSides := by
  cases i with
  | fprep ch k cap =>
    simp only [effect] at h
    split at h
    · cases h
      rfl
    · next kind hkind =>
      have hk : kind ≠ .sf := fun e => hprep ch cap (by rw [(fifoKind_eq_sf hkind).1 e])
      split at h
      · cases h
      · cases h
        exact State.producerSides_modChan fun _ => Channel.producerSide_prepare hk
  | fpush ch k item =>
    simp only [effect] at h
    split at h
    · cases h
      rfl
    · next kind hkind =>
      have hk : kind ≠ .sf := fun e => legalOn_fpush_B hlegal ((fifoKind_eq_sf hkind).1 e)
      split at h
      · cases h
        rfl
      · next x hx =>
        cases h
        exact State.producerSides_beginPush ((Channel.fits_of_itemOfPayload hx).1.trans_ne hk)
  | fpull ch k =>
    simp only [effect] at h
    split at h <;> cases h
    · rfl
    · exact State.producerSides_beginPull _ _ _
  | chord ch ord =>
    simp only [effect] at h
    split at h <;> cases h
    · rfl
    · exact State.producerSides_modChan fun _ => Channel.producerSide_changeOrder _ _ _
  | rfeed ch =>
    cases h
    exact State.producerSides_beginFeed _ _
  | spec ch floorDb =>
    cases h
    exact State.producerSides_modChan fun _ => Channel.producerSide_analyse _ _ _
  | cgen ch bx bt bw bh binWidthHz floorDb =>
    rcases of_ite_eq h with ⟨-, h⟩ | ⟨-, h⟩ <;> cases h
    · rfl
    · exact State.producerSides_modChan fun _ => Channel.producerSide_genCurve ..
  | cget ch =>
    cases h
    exact State.producerSides_modChan fun _ => Channel.producerSide_drainCurves _ _
  | poll ch fs bx bt bw bh =>
    rcases of_ite_eq h with ⟨-, h⟩ | ⟨-, h⟩ <;> cases h
    · rfl
    · exact State.producerSides_pollRun _ _ _
  | proc n samples => cases hlegal
  | wrr r v =>
    simp only [effect] at h
    split at h <;> cases h
    · rfl
    · next reg hr =>
      obtain ⟨hcfg, hchans, -⟩ := State.writeReg_frame s reg v
      exact State.producerSides_congr hcfg hchans
  | _ =>
    simp only [effect] at h
    repeat' split at h
    all_goals
      cases h
      exact State.producerSides_congr (by simp [State.tickPost]) (by simp [State.tickPost])

end Sys2Proof.Machine

namespace Sys2Proof.Machine

/-! ## Everything but the channels and the ports -/

namespace State

/-- Everything of a state but its channels and its ports. -/
def globals (s : State) : State :=
  { s with chans := [], ports := { a := PortState.idle, b := PortState.idle, h := PortState.idle } }

@[simp] theorem globals_modChan (s : State) (c : Nat) (f : Channel → Channel) : (s.modChan c f).globals = s.globals := rfl

@[simp] theorem globals_finish (s : State) (r : Response) : (s.finish r).globals = s.globals := rfl

@[simp] theorem globals_setBusy (s : State) (m : Micro) : (s.setBusy m).globals = s.globals := rfl

@[simp] theorem globals_runProc (s : State) (n : Nat) (xs : List Word) : (s.runProc n xs).globals = s.globals := rfl

@[simp] theorem globals_pollRun (s : State) (a : PollArgs) (n : Nat) : (s.pollRun a n).globals = s.globals := rfl

@[simp] theorem globals_tickPost (s : State) : s.tickPost.globals = s.postCoeffs.globals := rfl

@[simp] theorem globals_beginPush (s : State) (c : Nat) (x : Item) : (s.beginPush c x).globals = s.globals := by
  unfold beginPush
  split_ifs <;> rfl

@[simp] theorem globals_beginPull (s : State) (c : Nat) (k : FifoKind) : (s.beginPull c k).globals = s.globals := by
  unfold beginPull
  split_ifs <;> rfl

@[simp] theorem globals_beginFeed (s : State) (c : Nat) : (s.beginFeed c).globals = s.globals := by
  unfold beginFeed
  split_ifs <;> rfl

/-- What a command that passes its checks makes of the state outside the channels and the ports: seven commands touch
it. -/
def afterCommand (s : State) : Instr → State
  | .ccoef fs => s.tickDesign fs
  | .apply => s.postCoeffs
  | .proc _ _ => s.takeCoeffs
  | .wrr r v =>
    match regOf s.nch r with
    | none => s
    | some reg => s.writeReg reg v
  | .snap => s.latchSettings
  | .tclr => s.clearPchg
  | .tick fs =>
    if !s.pchg then s
    else if s.turn.split then s.clearPchg
    else (s.clearPchg.latchSettings.tickDesign fs).postCoeffs
  | .fprep _ _ _ | .fpush _ _ _ | .fpull _ _ | .favail _ _ | .fovf _ _ | .chord _ _ | .rfeed _ | .spec _ _
  | .cgen _ _ _ _ _ _ _ | .cget _ | .rdcrv _ | .rdcoef | .rdr _ | .poll _ _ _ _ _ _ => s

/-- What a micro-step makes of the state outside the channels and the ports. -/
def afterMicro (s : State) : Micro → State
  | .tickLatch _ => s.latchSettings
  | .tickDesign fs => s.tickDesign fs
  | .tickPost => s.postCoeffs
  | .pushCopy _ _ | .pushPublish _ _ | .pullCopy _ _ | .pullFree _ _ | .feedCopy _ | .feedFree _ _ | .procRun _ _
  | .pollFeed _ _ | .pollSpec _ _ | .pollCurve _ _ => s

theorem globals_microStep (s : State) (m : Micro) : (s.microStep m).globals = (s.afterMicro m).globals := by
  cases m with
  | pollFeed a n | pollCurve a n => cases n <;> rfl
  | _ => rfl

end State

/-- The effect of a command outside the channels and the ports. -/
theorem globals_effect {i : Instr} {s t : State} (h : effect i s = .next t) :
    t.globals = (s.afterCommand i).globals := by
  cases i with
  | tick fs =>
    simp only [effect] at h
    simp only [State.afterCommand]
    split_ifs at h ⊢ <;> cases h <;> simp
  | wrr r v =>
    simp only [effect] at h
    simp only [State.afterCommand]
    cases hr : regOf s.nch r with
    | none =>
      simp only [hr] at h ⊢
      cases h
      rfl
    | some reg =>
      simp only [hr] at h ⊢
      cases h
      rfl
  | _ =>
    simp only [effect] at h
    repeat' split at h
    all_goals cases h <;> simp [State.afterCommand]

end Sys2Proof.Machine

/-! # What a turn of each agent leaves (R63, R68, R77, R280) -/

namespace Sys2Proof.Machine

/-! ### The store of a register (R24, R25, R242) -/

/-- The store of a parameter writes the parameters and sets `PCHG`. -/
theorem State.writeReg_parameter {r : Reg} (hr : r.group = .parameter) (s : State) (v : Word) :
    s.writeReg r v = { s with params := (s.storeReg r v).params, pchg := true } := by
  cases r with
  | floorDb | stride | blkLen | status | errCause | errWord | ordr => cases hr
  | _ => rfl

theorem State.writeReg_params_of_ne {r : Reg} (hr : r.group ≠ .parameter) (s : State) (v : Word) :
    (s.writeReg r v).params = s.params := by
  cases r with
  | floorDb | stride | blkLen | status | errCause | errWord | ordr => rfl
  | _ => exact absurd rfl hr

@[simp] theorem State.writeReg_act (s : State) (r : Reg) (v : Word) : (s.writeReg r v).act = s.act := by
  unfold State.writeReg
  split <;> simp

@[simp] theorem State.writeReg_mbox (s : State) (r : Reg) (v : Word) : (s.writeReg r v).mbox = s.mbox := by
  unfold State.writeReg
  split <;> simp

/-! ### The commands of agents A and H -/

/-- The commands that agent A may issue (R280). -/
theorem legalOn_A {i : Instr} (h : legalOn i .A = true) :
    (∃ ch item, i = .fpush ch 0 item) ∨ (∃ ch, i = .favail ch 0) ∨ (∃ ch k, i = .fovf ch k) ∨
      (∃ n xs, i = .proc n xs) ∨ ∃ r, i = .rdr r := by
  cases i with
  | fpush ch k item =>
    have hk : k = 0 := by simpa [legalOn] using h
    exact .inl ⟨ch, item, by rw [hk]⟩
  | favail ch k =>
    have hk : k = 0 := by simpa [legalOn] using h
    exact .inr (.inl ⟨ch, by rw [hk]⟩)
  | fovf ch k => exact .inr (.inr (.inl ⟨ch, k, rfl⟩))
  | proc n xs => exact .inr (.inr (.inr (.inl ⟨n, xs, rfl⟩)))
  | rdr r => exact .inr (.inr (.inr (.inr ⟨r, rfl⟩)))
  | wrr r v =>
    simp only [legalOn] at h
    split at h <;> cases h
  | _ => cases h

/-- The commands that agent H may issue (R280). -/
theorem legalOn_H {i : Instr} (h : legalOn i .H = true) :
    (∃ ch k, i = .fovf ch k) ∨ (∃ r v, i = .wrr r v ∧ r.toNat ≤ 8) ∨ ∃ r, i = .rdr r := by
  cases i with
  | fovf ch k => exact .inl ⟨ch, k, rfl⟩
  | rdr r => exact .inr (.inr ⟨r, rfl⟩)
  | wrr r v =>
    simp only [legalOn] at h
    split at h
    · next hr => exact .inr (.inl ⟨r, v, rfl, hr⟩)
    · cases h
  | fpush ch k item | favail ch k =>
    simp only [legalOn] at h
    split at h <;> cases h
  | _ => cases h

/-! ### The frames -/

namespace State

/-- What agent A's turns leave outside the channels and the ports: all but `ERR` and `ACT`, into which a take moves the
mailbox. -/
def FrameA (s t : State) : Prop :=
  t.params = s.params ∧ t.pchg = s.pchg ∧ t.settings = s.settings ∧ t.newc = s.newc ∧ t.floorDb = s.floorDb ∧
    t.stride = s.stride ∧ t.blkLen = s.blkLen ∧ (t.mbox = s.mbox ∨ t.mbox = none)

/-- What agent B's turns leave outside the channels and the ports: the parameters and `ACT`, while the mailbox becomes no
more than `NEWC` and `PCHG` no more than clear. -/
def FrameB (s t : State) : Prop :=
  t.params = s.params ∧ t.act = s.act ∧ (t.mbox = s.mbox ∨ t.mbox = t.newc) ∧ (t.pchg = s.pchg ∨ t.pchg = false)

/-- What agent H's turns leave: all but the parameters, `PCHG`, which they may set, `ERR` and the ports. -/
def FrameH (s t : State) : Prop :=
  t = { s with params := t.params, pchg := t.pchg, err := t.err, ports := t.ports } ∧ (t.pchg = s.pchg ∨ t.pchg = true)

variable {s t : State}

/-- Of the later state a frame speaks of the globals only. -/
theorem FrameA.congr {u : State} (h : s.FrameA u) (hg : t.globals = u.globals) : s.FrameA t := by
  change s.FrameA t.globals
  rw [hg]
  exact h

theorem FrameB.congr {u : State} (h : s.FrameB u) (hg : t.globals = u.globals) : s.FrameB t := by
  change s.FrameB t.globals
  rw [hg]
  exact h

theorem FrameA.refl (s : State) : s.FrameA s := ⟨rfl, rfl, rfl, rfl, rfl, rfl, rfl, .inl rfl⟩

theorem FrameB.refl (s : State) : s.FrameB s := ⟨rfl, rfl, .inl rfl, .inl rfl⟩

theorem FrameA.takeCoeffs (s : State) : s.FrameA s.takeCoeffs := by
  rw [takeCoeffs_eq]
  exact ⟨rfl, rfl, rfl, rfl, rfl, rfl, rfl, .inr rfl⟩

theorem FrameB.latchSettings (s : State) : s.FrameB s.latchSettings :=
  ⟨latchSettings_params s, latchSettings_act s, .inl (latchSettings_mbox s), .inl (latchSettings_pchg s)⟩

theorem FrameB.tickDesign (s : State) (fs : Word) : s.FrameB (s.tickDesign fs) :=
  ⟨tickDesign_params s fs, tickDesign_act s fs, .inl (tickDesign_mbox s fs), .inl (tickDesign_pchg s fs)⟩

theorem FrameB.postCoeffs (s : State) : s.FrameB s.postCoeffs := ⟨rfl, rfl, .inr rfl, .inl rfl⟩

/-! ### Refusals -/

/-- A refusal writes `ERR` and the port (R272). -/
theorem raise_eq (s : State) (c : Cause) (w : Word) :
    s.raise c w = { s with err := (s.raise c w).err, ports := (s.raise c w).ports } := by
  unfold raise latchErr
  split <;> rfl

theorem FrameA.raise (s : State) (c : Cause) (w : Word) : s.FrameA (s.raise c w) := by
  rw [raise_eq]
  exact .refl s

theorem FrameB.raise (s : State) (c : Cause) (w : Word) : s.FrameB (s.raise c w) := by
  rw [raise_eq]
  exact .refl s

theorem FrameH.raise (s : State) (c : Cause) (w : Word) : s.FrameH (s.raise c w) :=
  ⟨by rw [raise_eq], .inl (raise_pchg s c w)⟩

/-! ### Micro-steps -/

theorem MicroOkA.frameA {m : Micro} (hm : s.MicroOkA m) : s.FrameA (s.microStep m) := by
  rcases hm.cases with ⟨ch, xs, rfl, -⟩ | ⟨ch, rfl, -⟩ | ⟨n, xs, rfl⟩ <;> exact .refl s

theorem MicroOkB.frameB {m : Micro} (hm : s.MicroOkB m) : s.FrameB (s.microStep m) := by
  refine .congr ?_ (globals_microStep s m)
  cases m with
  | tickLatch fs => exact .latchSettings s
  | tickDesign fs => exact .tickDesign s fs
  | tickPost => exact .postCoeffs s
  | _ => exact .refl s

end State

/-! ### Commands -/

theorem effect_frameA {i : Instr} {s t : State} (hlegal : legalOn i .A = true) (h : effect i s = .next t) :
    s.FrameA t := by
  refine .congr ?_ (globals_effect h)
  rcases legalOn_A hlegal with ⟨ch, item, rfl⟩ | ⟨ch, rfl⟩ | ⟨ch, k, rfl⟩ | ⟨n, xs, rfl⟩ | ⟨r, rfl⟩
  · exact .refl s
  · exact .refl s
  · exact .refl s
  · exact .takeCoeffs s
  · exact .refl s

/-- A register that agent B may write is no parameter (R242). -/
theorem group_ne_of_legalOn_B {nch : Nat} {r : BitVec 8} {v : Word} {reg : Reg} (hr : regOf nch r = some reg)
    (h : legalOn (.wrr r v) .B = true) : reg.group ≠ .parameter := by
  intro hg
  have hn : r.toNat ≤ 8 := by
    rw [regOf_number nch r reg hr]
    exact (Reg.group_iff reg).1 hg
  simp [legalOn, hn] at h

theorem effect_frameB {i : Instr} {s t : State} (hlegal : legalOn i .B = true) (h : effect i s = .next t) :
    s.FrameB t := by
  refine .congr ?_ (globals_effect h)
  cases i with
  | ccoef fs => exact .tickDesign s fs
  | apply => exact .postCoeffs s
  | snap => exact .latchSettings s
  | tclr => exact ⟨rfl, rfl, .inl rfl, .inr rfl⟩
  | tick fs =>
    simp only [State.afterCommand]
    split_ifs
    · exact .refl s
    · exact ⟨rfl, rfl, .inl rfl, .inr rfl⟩
    · exact ⟨by simp, by simp, .inr (by simp), .inr (by simp)⟩
  | wrr r v =>
    simp only [State.afterCommand]
    cases hr : regOf s.nch r with
    | none => exact .refl s
    | some reg =>
      have hg := group_ne_of_legalOn_B hr hlegal
      refine ⟨State.writeReg_params_of_ne hg s v, State.writeReg_act s reg v, .inl (State.writeReg_mbox s reg v), .inl ?_⟩
      simp [State.writeReg_pchg, hg]
  | proc n xs => cases hlegal
  | _ => exact .refl s

theorem effect_frameH {i : Instr} {s t : State} (hlegal : legalOn i .H = true) (h : effect i s = .next t) :
    s.FrameH t := by
  rcases legalOn_H hlegal with ⟨ch, k, rfl⟩ | ⟨r, v, rfl, hn⟩ | ⟨r, rfl⟩
  · simp only [effect] at h
    split at h <;> cases h <;> exact ⟨rfl, .inl rfl⟩
  · simp only [effect] at h
    split at h <;> cases h
    · exact ⟨rfl, .inl rfl⟩
    · next reg hr =>
      have hg : reg.group = .parameter := (Reg.group_iff reg).2 (regOf_number _ r reg hr ▸ hn)
      rw [State.writeReg_parameter hg]
      exact ⟨rfl, .inr rfl⟩
  · simp only [effect] at h
    repeat' split at h
    all_goals
      cases h
      exact ⟨rfl, .inl rfl⟩

/-! ### Turns -/

/-- A command that a turn runs is legal on its port. -/
theorem legalOn_of_causeOf {i : Instr} {s : State} (h : causeOf i s = none) : legalOn i s.cur = true := by
  obtain ⟨-, hlegal, -⟩ := (causeOf_eq_none i s).1 h
  exact hlegal

namespace TurnTo

variable {s t : State} {p : Port} {sp : Bool} {es : List Event}

/-- A turn touches its own port only. -/
theorem port_ne (ht : TurnTo s p (s.withTurn p sp es) t) {q : Port} (hq : q ≠ p) : t.port q = s.port q := by
  have hstream : ∀ ws, ((s.withTurn p sp es).setStream ws).port q = s.port q := fun ws => State.port_setPort_ne _ _ _ _ hq
  cases ht with
  | micro m hb => exact (State.endsOrWaits_microStep _ m).port_ne hq
  | stutter hb => rfl
  | refuse hb ws c w =>
    obtain ⟨-, hports, -⟩ := State.turned_raise (fit := True) (quiet := fun _ => True) _ c w
    exact (hports.port_ne hq).trans (hstream ws)
  | run hb i rest t hd hc he =>
    obtain ⟨-, hports, -⟩ := State.turned_effect (fit := True) (quiet := fun _ => True) (fun _ _ => trivial) hc he
    exact (hports.port_ne hq).trans (hstream rest)

theorem frameA (hs : s.FifoInv) (ht : TurnTo s .A (s.withTurn .A sp es) t) : s.FrameA t := by
  obtain ⟨-, hbusy, -, -⟩ := hs
  cases ht with
  | micro m hb => exact State.MicroOkA.frameA (s := s.withTurn .A sp es) (hbusy m hb)
  | stutter hb => exact .refl s
  | refuse hb ws c w => exact State.FrameA.raise ((s.withTurn .A sp es).setStream ws) c w
  | run hb i rest t hd hc he => exact effect_frameA (s := (s.withTurn .A sp es).setStream rest) (legalOn_of_causeOf hc) he

theorem frameB (hs : s.FifoInv) (ht : TurnTo s .B (s.withTurn .B sp es) t) : s.FrameB t := by
  obtain ⟨-, -, hbusy, -⟩ := hs
  cases ht with
  | micro m hb => exact State.MicroOkB.frameB (s := s.withTurn .B sp es) (hbusy m hb)
  | stutter hb => exact .refl s
  | refuse hb ws c w => exact State.FrameB.raise ((s.withTurn .B sp es).setStream ws) c w
  | run hb i rest t hd hc he => exact effect_frameB (s := (s.withTurn .B sp es).setStream rest) (legalOn_of_causeOf hc) he

theorem frameH (hs : s.FifoInv) (ht : TurnTo s .H (s.withTurn .H sp es) t) : (s.withTurn .H sp es).FrameH t := by
  obtain ⟨-, -, -, hidle⟩ := hs
  cases ht with
  | micro m hb => cases hidle.symm.trans hb
  | stutter hb => exact ⟨rfl, .inl rfl⟩
  | refuse hb ws c w => exact State.FrameH.raise ((s.withTurn .H sp es).setStream ws) c w
  | run hb i rest t hd hc he => exact effect_frameH (s := (s.withTurn .H sp es).setStream rest) (legalOn_of_causeOf hc) he

/-- Only agent A's take writes `ACT` (R70). -/
theorem act_eq (hs : s.FifoInv) (ht : TurnTo s p (s.withTurn p sp es) t) (hp : p ≠ .A) : t.act = s.act := by
  cases p with
  | A => exact absurd rfl hp
  | B =>
    obtain ⟨-, hact, -⟩ := ht.frameB hs
    exact hact
  | H =>
    obtain ⟨hrest, -⟩ := ht.frameH hs
    rw [hrest]
    rfl

/-- A turn of agent B without an `FPREP SF` at the head of its stream. -/
theorem producerSides (hs : s.FifoInv) (ht : TurnTo s .B (s.withTurn .B sp es) t)
    (hprep : ∀ ch cap rest, decode s.nch s.ports.b.stream ≠ .ok (.fprep ch 0 cap, rest)) :
    t.producerSides = s.producerSides := by
  obtain ⟨-, -, hbusy, -⟩ := hs
  cases ht with
  | micro m hb => exact State.producerSides_microStep (s := s.withTurn .B sp es) (hbusy m hb)
  | stutter hb => rfl
  | refuse hb ws c w =>
    exact State.producerSides_congr (State.raise_cfg ((s.withTurn .B sp es).setStream ws) c w)
      (State.raise_chans ((s.withTurn .B sp es).setStream ws) c w)
  | run hb i rest t hd hc he =>
    refine effect_producerSides (s := (s.withTurn .B sp es).setStream rest) (legalOn_of_causeOf hc) ?_ he
    rintro ch cap rfl
    exact hprep ch cap rest hd

end TurnTo

/-- The turn that a step takes, when the next event is one. -/
theorem step_turnTo {s t : State} {p : Port} {sp : Bool} {es : List Event} (hs : s.sched = .turn p sp :: es)
    (h : step s = .next t) : TurnTo s p (s.withTurn p sp es) t := by
  rcases step_cases s t h with ⟨es', he, -⟩ | ⟨p', ws, es', he, -⟩ | ⟨p', sp', es', he, ht⟩
  · cases hs.symm.trans he
  · cases hs.symm.trans he
  · cases hs.symm.trans he
    exact ht

/-- Settles O26: outside the channels by the commands each agent may issue, and channel by channel by the operations it
makes. -/
theorem stateOwnership : Obligations.StateOwnership := by
  refine ⟨fun s t sp es hs hsched h => ?_, fun s t sp es hs hsched h => ?_, fun s t sp es hs hsched h => ?_⟩
  · have ht := step_turnTo hsched h
    obtain ⟨hparams, hpchg, hsettings, hnewc, hfloor, hstride, hblk, hmbox⟩ := ht.frameA hs
    obtain ⟨⟨-, hnch, hmoves⟩, -⟩ := ht.agentTurn hs
    refine ⟨hparams, hpchg, hsettings, hnewc, hfloor, hstride, hblk, hmbox, hnch, fun ch => ?_⟩
    have hkept := (hmoves ch).ownedByB nofun
    simp only [Channel.ownedByB, Channel.mk.injEq, Fifo.mk.injEq] at hkept
    obtain ⟨⟨hprepared, hcap, hshape, -, hrd, -⟩, hmf, hcf, hord, hwin, hcurve, -⟩ := hkept
    exact ⟨hmf, hcf, hord, hwin, hcurve, hprepared, hcap, hshape, hrd⟩
  · have ht := step_turnTo hsched h
    obtain ⟨hparams, hact, hmbox, hpchg⟩ := ht.frameB hs
    obtain ⟨⟨-, hnch, hmoves⟩, -⟩ := ht.agentTurn hs
    refine ⟨hparams, hact, hmbox, hpchg, hnch, fun ch => (hmoves ch).z_eq nofun, fun hprep ch => ?_⟩
    have hkept := congrFun (ht.producerSides hs hprep) ch
    simp only [State.producerSides, Channel.producerSide, Fifo.mk.injEq] at hkept
    obtain ⟨hprepared, hcap, hshape, hwr, -, hslots, hovf⟩ := hkept
    exact ⟨hprepared, hcap, hshape, hwr, hovf, hslots⟩
  · have ht := step_turnTo hsched h
    obtain ⟨hrest, hpchg⟩ := ht.frameH hs
    exact ⟨hrest, ht.port_ne (q := .A) nofun, ht.port_ne (q := .B) nofun, hpchg⟩

/-! ### A `PROC` in progress (R70) -/

/-- What `PROC` answers is a function of the format, the CoeffSet, and the number and stage states of the channels. -/
theorem processChannels_fst_congr {A : Arith Word} {co : CoeffSet Word} {n : Nat} {xs : List Word} {s t : State}
    (hnch : t.nch = s.nch) (hz : ∀ ch, (t.chan ch).z = (s.chan ch).z) :
    (processChannels A co n t.chans xs).1 = (processChannels A co n s.chans xs).1 := by
  have hstates : ∀ i, (t.chans.getD i (Channel.afterReset t.cfg.num)).z = (s.chans.getD i (Channel.afterReset s.cfg.num)).z :=
    hz
  have hlen : t.chans.length = s.chans.length := hnch
  rw [processChannels_eq A co n (Channel.afterReset t.cfg.num) t.chans,
    processChannels_eq A co n (Channel.afterReset s.cfg.num) s.chans]
  simp only [hlen, hstates]

/-- Settles O48: agents B and H write neither `ACT` nor a stage state, by O26 and the operations they make. -/
theorem coefficientsFixedDuringProc : Obligations.CoefficientsFixedDuringProc := by
  intro s t p sp es n xs hs hbusy hp hsched h
  have ht := step_turnTo hsched h
  have hact := ht.act_eq hs hp
  obtain ⟨⟨hcfg, hnch, hmoves⟩, -⟩ := ht.agentTurn hs
  refine ⟨?_, hact, ?_⟩
  · have hport : t.ports.a = s.ports.a := ht.port_ne (q := .A) hp.symm
    rw [hport, hbusy]
  · rw [hcfg, hact]
    exact processChannels_fst_congr hnch fun ch => (hmoves ch).z_eq hp

end Sys2Proof.Machine

/-! # The reading commands (R63, R127, R128, R188, R213, R243) -/

namespace Sys2Proof.Machine

/-- A refusal writes `ERR` and answers on its port (R272). -/
theorem State.raise_eq_answer (s : State) (c : Cause) (w : Word) :
    s.raise c w = { s.finish (respond .fault c.code.toNat) with err := (s.raise c w).err } := by
  rw [raise_eq, raise_ports]
  rfl

/-- The effect of a reading command is its response. -/
theorem effect_query {i : Instr} {s t : State}
    (hi : i = .rdcoef ∨ (∃ ch k, i = .favail ch k) ∨ (∃ ch k, i = .fovf ch k) ∨ (∃ ch, i = .rdcrv ch) ∨ ∃ r, i = .rdr r)
    (hc : causeOf i s = none) (h : effect i s = .next t) : ∃ r, t = s.finish r := by
  obtain ⟨hsel, -, hprep, hwritten, -⟩ := (causeOf_eq_none i s).1 hc
  rcases hi with rfl | ⟨ch, k, rfl⟩ | ⟨ch, k, rfl⟩ | ⟨ch, rfl⟩ | ⟨r, rfl⟩
  · obtain ⟨c, hnewc⟩ := Option.isSome_iff_exists.1 hprep
    simp only [effect, hnewc] at h
    cases h
    exact ⟨_, rfl⟩
  · obtain ⟨kind, hkind, -⟩ := State.fifoSel_isSome hsel
    simp only [effect, hkind] at h
    cases h
    exact ⟨_, rfl⟩
  · obtain ⟨kind, hkind, -⟩ := State.fifoSel_isSome hsel
    simp only [effect, hkind] at h
    cases h
    exact ⟨_, rfl⟩
  · cases h
    exact ⟨_, rfl⟩
  · obtain ⟨reg, hr⟩ := Option.isSome_iff_exists.1 hsel
    simp only [writtenOk, hr] at hwritten
    obtain ⟨v, hv⟩ := Option.isSome_iff_exists.1 hwritten
    simp only [effect, hr, hv] at h
    cases h
    exact ⟨_, rfl⟩

/-- Settles O56: a reading command is refused or answers. -/
theorem queryFrame : Obligations.QueryFrame := by
  intro i s t hi h
  rcases exec_next i s t h with ⟨c, hc, rfl⟩ | ⟨hc, he⟩
  · refine ⟨⟨respond .fault c.code.toNat, s.raise_eq_answer c i.word⟩, fun hnone => ?_⟩
    cases hnone.symm.trans hc
  · obtain ⟨r, rfl⟩ := effect_query hi hc he
    exact ⟨⟨r, rfl⟩, fun _ => rfl⟩

end Sys2Proof.Machine

/-! # Micro-steps one after another (R66, R76) -/

namespace Sys2Proof.Machine

namespace State

/-! ## The slot of the command in progress -/

@[simp] theorem setBusy_setBusy (s : State) (m m' : Micro) : (s.setBusy m).setBusy m' = s.setBusy m' := by
  simp [setBusy, port, setPort, cur]

@[simp] theorem finish_setBusy (s : State) (m : Micro) (r : Response) : (s.setBusy m).finish r = s.finish r := by
  simp [setBusy, finish, port, setPort, cur]

theorem modChan_setBusy (s : State) (m : Micro) (c : Nat) (f : Channel → Channel) :
    (s.setBusy m).modChan c f = (s.modChan c f).setBusy m := rfl

theorem latchSettings_setBusy (s : State) (m : Micro) :
    (s.setBusy m).latchSettings = s.latchSettings.setBusy m := by
  unfold latchSettings
  simp only [setBusy_params]
  split <;> rfl

theorem tickDesign_setBusy (s : State) (m : Micro) (fs : Word) :
    (s.setBusy m).tickDesign fs = (s.tickDesign fs).setBusy m := by
  unfold tickDesign
  simp only [setBusy_settings]
  split
  · rfl
  · next c hc => by_cases hv : validSettings s.cfg.num c fs = true <;> simp only [computeCoeffs, setBusy_cfg, hv] <;> rfl

/-- A micro-step does not read which micro-step its port waits for. -/
theorem microStep_setBusy (s : State) (m m' : Micro) : (s.setBusy m').microStep m = s.microStep m := by
  cases m with
  | pushCopy | pushPublish | pullFree | feedFree | pollSpec =>
    simp [microStep, pushCopy, pushPublish, pullFree, feedFree, modChan_setBusy]
  | pullCopy c k | feedCopy c => exact setBusy_setBusy s m' _
  | procRun n xs => exact finish_setBusy { s with chans := _ } m' _
  | tickLatch fs => simp [microStep, latchSettings_setBusy]
  | tickDesign fs => simp [microStep, tickDesign_setBusy]
  | tickPost => exact finish_setBusy s.postCoeffs m' _
  | pollFeed a n =>
    cases n with
    | zero => exact setBusy_setBusy s m' _
    | succ n => exact setBusy_setBusy (s.modChan _ _) m' _
  | pollCurve a n =>
    cases n with
    | zero => exact finish_setBusy (s.modChan _ _) m' _
    | succ n => exact setBusy_setBusy (s.modChan _ _) m' _

theorem settle_of_busy {s : State} {m : Micro} (h : (s.port s.cur).busy = some m) (n : Nat) :
    s.settle (n + 1) = (s.microStep m).settle n := by
  simp only [settle, h]

theorem settle_setBusy (s : State) (m : Micro) (n : Nat) : (s.setBusy m).settle (n + 1) = (s.microStep m).settle n := by
  have hbusy : ((s.setBusy m).port (s.setBusy m).cur).busy = some m := by rw [setBusy_cur, setBusy_port_cur]
  rw [settle_of_busy hbusy, microStep_setBusy]

/-- The three micro-steps of a `TICK` after its first (R248). -/
theorem settle_tick {s : State} {fs : Word} (h : (s.port s.cur).busy = some (.tickLatch fs)) :
    s.settle 3 = (s.latchSettings.tickDesign fs).tickPost :=
  calc s.settle 3 = (s.latchSettings.setBusy (.tickDesign fs)).settle 2 := settle_of_busy h 2
    _ = ((s.latchSettings.tickDesign fs).setBusy .tickPost).settle 1 := settle_setBusy _ _ 1
    _ = (s.latchSettings.tickDesign fs).tickPost := settle_setBusy _ _ 0

end State

/-! ## A parameter write inside a `TICK` (R71, R73) -/

/-- A number up to 8 names a parameter register (R24). -/
theorem regOf_parameter (nch : Nat) {r : BitVec 8} (hr : r.toNat ≤ 8) :
    ∃ reg, regOf nch r = some reg ∧ reg.group = .parameter := by
  have hcases : ∀ r : BitVec 8, r.toNat ≤ 8 →
      r = 0 ∨ r = 1 ∨ r = 2 ∨ r = 3 ∨ r = 4 ∨ r = 5 ∨ r = 6 ∨ r = 7 ∨ r = 8 := by decide
  rcases hcases r hr with rfl | rfl | rfl | rfl | rfl | rfl | rfl | rfl | rfl <;> exact ⟨_, rfl, rfl⟩

/-- A parameter write of agent H is never refused (R242). -/
theorem exec_wrr_parameter {s : State} {r : BitVec 8} (v : Word) (hcur : s.cur = .H) (hr : r.toNat ≤ 8) :
    ∃ reg, reg.group = .parameter ∧ exec (.wrr r v) s = .next ((s.writeReg reg v).finish (respond .ok 0)) := by
  obtain ⟨reg, hreg, hg⟩ := regOf_parameter s.nch hr
  have hvalue : s.badRegValue reg v = false := by
    cases reg with
    | floorDb | stride | blkLen => cases hg
    | _ => rfl
  refine ⟨reg, hg, ?_⟩
  simp only [exec, execWrr, hreg]
  exact guarded_pass _ _ _ _ (by simp [hg, hcur, hvalue, RegGroup.writer])

/-- There is a snapshot exactly when all nine parameters are written (R244). -/
theorem Params.snapshot_isSome (p : Params) : p.snapshot.isSome = true ↔
    p.peakFreq.isSome ∧ p.peakGain.isSome ∧ p.peakQ.isSome ∧ p.loCutFreq.isSome ∧ p.hiCutFreq.isSome ∧
      p.loCutSlope.isSome ∧ p.hiCutSlope.isSome ∧ p.bypass.isSome ∧ p.anEn.isSome := by
  obtain ⟨pf, pg, pq, lf, hf, ls, hs, by3, an⟩ := p
  constructor
  · intro h
    unfold Params.snapshot at h
    split at h
    · simp_all
    · cases h
  · simp only [Option.isSome_iff_exists]
    rintro ⟨⟨_, rfl⟩, ⟨_, rfl⟩, ⟨_, rfl⟩, ⟨_, rfl⟩, ⟨_, rfl⟩, ⟨_, rfl⟩, ⟨_, rfl⟩, ⟨_, rfl⟩, ⟨_, rfl⟩⟩
    exact ⟨_, rfl⟩

/-- A store unwrites no parameter. -/
theorem storeReg_snapshot_isSome {s : State} (r : Reg) (v : Word) (h : s.params.snapshot.isSome = true) :
    (s.storeReg r v).params.snapshot.isSome = true := by
  rw [Params.snapshot_isSome] at h ⊢
  cases r <;> simp_all [State.storeReg]

theorem State.latchSettings_settings {s : State} (h : s.params.snapshot.isSome = true) :
    s.latchSettings.settings = s.params.snapshot := by
  obtain ⟨c, hc⟩ := Option.isSome_iff_exists.1 h
  simp only [State.latchSettings, hc]

/-- What a parameter write of agent H does that a `TICK` of agent B in progress can tell (R27, R242). -/
theorem exec_wrr_parameter_result {s t : State} {r : BitVec 8} {v : Word} (hcur : s.cur = .H) (hr : r.toNat ≤ 8)
    (h : exec (.wrr r v) s = .next t) :
    t.pchg = true ∧ t.ports.b = s.ports.b ∧ (s.params.snapshot.isSome = true → t.params.snapshot.isSome = true) := by
  obtain ⟨reg, hg, hexec⟩ := exec_wrr_parameter v hcur hr
  have hport : t.port .B = s.port .B := (exec_endsOrWaits h).port_ne (by rw [hcur]; nofun)
  obtain rfl : (s.writeReg reg v).finish (respond .ok 0) = t := Host.Outcome.next.inj (hexec.symm.trans h)
  rw [State.writeReg_parameter hg] at hport ⊢
  exact ⟨rfl, hport, storeReg_snapshot_isSome reg v⟩

/-- What the three micro-steps of a `TICK` after its first leave (R248). -/
theorem settle_tick_result {s : State} {fs : Word} (hcur : s.cur = .B) (hbusy : s.ports.b.busy = some (.tickLatch fs))
    (hwritten : s.params.snapshot.isSome = true) :
    (s.settle 3).pchg = s.pchg ∧ (s.settle 3).settings = s.params.snapshot ∧ (s.settle 3).mbox = (s.settle 3).newc ∧
      (s.settle 3).ports.b.busy = none ∧ (s.settle 3).ports.b.pc = s.ports.b.pc + 1 := by
  have hwaits : (s.port s.cur).busy = some (.tickLatch fs) := by rwa [hcur]
  have hports : ((s.latchSettings.tickDesign fs).tickPost).ports = (s.finish (respond .ok 1)).ports :=
    State.finish_ports_congr (by simp) (by simp) _
  have hport := s.finish_port_cur (respond .ok 1)
  rw [hcur, State.port, ← hports] at hport
  rw [State.settle_tick hwaits]
  refine ⟨by simp, ?_, rfl, congrArg PortState.busy hport, congrArg PortState.pc hport⟩
  exact (State.tickDesign_settings s.latchSettings fs).trans (State.latchSettings_settings hwritten)

/-- Settles O53: the parameter write falls before the latch, which is the next of the three micro-steps to come. -/
theorem noLostUpdate : Obligations.NoLostUpdate := by
  intro s s1 s2 fs v r sp sp' hcur hsplit hpchg hc hr htick hwrr s3
  obtain rfl : s1 = s.clearPchg.setBusy (.tickLatch fs) := by
    rcases exec_next _ _ _ htick with ⟨c, hc', -⟩ | ⟨-, he⟩
    · cases hc.symm.trans hc'
    · simpa [effect, hpchg, hsplit] using he.symm
  have hwritten : s.params.snapshot.isSome = true := by
    obtain ⟨-, -, -, hwritten, -⟩ := (causeOf_eq_none _ _).1 hc
    simpa [writtenOk, hpchg] using hwritten
  have hport := State.setBusy_port_cur s.clearPchg (.tickLatch fs)
  rw [State.clearPchg_cur, hcur] at hport
  obtain ⟨hset, hkept, hsnapshot⟩ := exec_wrr_parameter_result rfl hr hwrr
  have hwaits : s2.ports.b = _ := hkept.trans hport
  obtain ⟨hpchg3, hsettings, hmbox, hbusy, hpc⟩ :=
    settle_tick_result (s := s2.withTurn .B sp' s2.sched) rfl (congrArg PortState.busy hwaits) (hsnapshot hwritten)
  refine ⟨rfl, hpchg3.trans hset, hsettings, ?_, hmbox, hbusy, hpc.trans ?_⟩
  · exact (congrArg Option.isSome hsettings).trans (hsnapshot hwritten)
  · exact congrArg (· + 1) (congrArg PortState.pc hwaits :)

end Sys2Proof.Machine

/-! # A cut command and the whole one (R66, R76) -/

namespace Sys2Proof.Machine

namespace State

/-- The same state in a turn that runs commands whole. -/
def whole (s : State) : State := { s with turn := { s.turn with split := false } }

/-! ## No operation reads whether the command is cut -/

theorem whole_raise (s : State) (c : Cause) (w : Word) : s.whole.raise c w = (s.raise c w).whole := by
  have hlatch : s.whole.latchErr c w = (s.latchErr c w).whole := by
    cases hv : s.err.valid with
    | true => rw [latchErr_of_valid _ _ _ hv, latchErr_of_valid s.whole _ _ hv]
    | false => rw [latchErr_of_clear _ _ _ hv, latchErr_of_clear s.whole _ _ hv]; rfl
  rw [raise, raise, hlatch]
  rfl

theorem whole_takeCoeffs (s : State) : s.whole.takeCoeffs = s.takeCoeffs.whole := by
  rw [takeCoeffs_eq, takeCoeffs_eq]
  rfl

theorem whole_latchSettings (s : State) : s.whole.latchSettings = s.latchSettings.whole := by
  cases h : s.params.snapshot with
  | none => simp only [latchSettings, whole, h]
  | some c => simp only [latchSettings, whole, h]

theorem whole_tickDesign (s : State) (fs : Word) : s.whole.tickDesign fs = (s.tickDesign fs).whole := by
  cases h : s.settings with
  | none => simp only [tickDesign, whole, h]
  | some c =>
    by_cases hv : validSettings s.cfg.num c fs = true <;> simp only [tickDesign, computeCoeffs, whole, h, hv] <;> rfl

theorem whole_writeReg (s : State) (r : Reg) (v : Word) : s.whole.writeReg r v = (s.writeReg r v).whole := by
  cases r <;> rfl

end State

theorem causeOf_whole (i : Instr) (s : State) : causeOf i s.whole = causeOf i s := by
  cases i <;> rfl

namespace State

/-! ## The micro-steps to the end -/

/-- The micro-steps of port `p` after `t` end its command in `w`, the mark of the turn apart. -/
def SettlesTo (p : Port) (t w : State) : Prop :=
  ∃ n, w = { t.settle n with turn := { port := p, split := false } } ∧ ((t.settle n).port p).busy = none

variable {p : Port} {s w : State}

theorem SettlesTo.finish {r : Response} (hcur : s.cur = p) (hw : w = (s.finish r).whole) :
    SettlesTo p (s.finish r) w := by
  subst hcur hw
  exact ⟨0, rfl, finish_busy s r⟩

theorem SettlesTo.step {m : Micro} (h : SettlesTo p (s.microStep m) w) : SettlesTo p (s.setBusy m) w := by
  obtain ⟨n, hw, hbusy⟩ := h
  rw [← settle_setBusy] at hw hbusy
  exact ⟨n + 1, hw, hbusy⟩

/-! ## Pushes and pulls (R125, R126, R142) -/

theorem settlesTo_beginPush (hs : s.turn.split = true) (c : Nat) (x : Item) :
    SettlesTo s.cur (s.beginPush c x) (s.whole.beginPush c x) := by
  by_cases hfull : ((s.chan c).fifo x.kind).full = true
  · have hwhole : s.whole.beginPush c x = (s.whole.modChan c fun ch => ch.countDrop x.kind).finish (respond .dropped 0) :=
      if_pos hfull
    rw [beginPush, if_pos hfull]
    exact .finish rfl hwhole
  · have hwhole : s.whole.beginPush c x = (s.whole.pushCopy c x).pushPublish c x.kind := if_neg hfull
    rw [beginPush, if_neg hfull, if_pos hs]
    exact .step (.step (.finish rfl hwhole))

theorem settlesTo_beginPull (hs : s.turn.split = true) (c : Nat) (k : FifoKind) :
    SettlesTo s.cur (s.beginPull c k) (s.whole.beginPull c k) := by
  by_cases hempty : ((s.chan c).fifo k).readable = 0
  · have hwhole : s.whole.beginPull c k = s.whole.finish (respond .empty 0) := if_pos hempty
    rw [beginPull, if_pos hempty]
    exact .finish rfl hwhole
  · have hwhole : s.whole.beginPull c k = s.whole.pullFree c ((s.chan c).front k) := if_neg hempty
    rw [beginPull, if_neg hempty, if_pos hs]
    exact .step (.step (.finish rfl hwhole))

theorem settlesTo_beginFeed (hs : s.turn.split = true) (c : Nat) :
    SettlesTo s.cur (s.beginFeed c) (s.whole.beginFeed c) := by
  by_cases hempty : (s.chan c).sf.readable = 0
  · have hwhole : s.whole.beginFeed c = s.whole.finish (respond .empty 0) := if_pos hempty
    rw [beginFeed, if_pos hempty]
    exact .finish rfl hwhole
  · have hwhole : s.whole.beginFeed c = s.whole.feedFree c ((s.chan c).sf.front []) := if_neg hempty
    rw [beginFeed, if_neg hempty, if_pos hs]
    exact .step (.step (.finish rfl hwhole))

/-! ## `POLL` (R250) -/

/-- An update that changes nothing. -/
theorem modChan_self {c : Nat} {f : Channel → Channel} (hn : c < s.nch) (h : f (s.chan c) = s.chan c) :
    s.modChan c f = s := by
  rw [nch] at hn
  have hset : s.chans.set c (s.chans[c]'hn) = s.chans := List.set_getElem_self hn
  have hchan : s.chan c = s.chans[c]'hn := List.getD_eq_getElem _ _ hn
  rw [modChan, h, setChan, hchan, hset]

/-- Phase 2 of a cut `POLL`, one `CGEN` after another, then phase 3. -/
theorem settlesTo_pollCurve {a : PollArgs} (hn : a.ch < s.nch) (hcur : s.cur = p) (n : Nat) :
    SettlesTo p (s.setBusy (.pollCurve a n))
      ((s.modChan a.ch fun x => x.pollCurves s.cfg.num s.stride.toNat a n).pollFinish a.ch).whole := by
  induction n generalizing s with
  | zero =>
    rw [modChan_self hn rfl]
    exact .step (.finish hcur rfl)
  | succ n ih =>
    refine .step ?_
    have h := ih (s := s.modChan a.ch fun x =>
      x.genCurve s.cfg.num s.stride.toNat a.bt a.bw a.bh a.binWidthHz a.floorDb) (by rwa [modChan_nch]) hcur
    rw [modChan_modChan _ _ _ _ hn] at h
    exact h

/-- A cut `POLL` from its snapshot of the readable count. -/
theorem settlesTo_pollFeed {a : PollArgs} (hn : a.ch < s.nch) (hcur : s.cur = p) (n : Nat) :
    SettlesTo p (s.setBusy (.pollFeed a n)) (s.pollRun a n).whole := by
  induction n generalizing s with
  | zero =>
    refine .step ?_
    rw [pollRun, modChan_self hn rfl]
    exact settlesTo_pollCurve hn hcur _
  | succ n ih =>
    have hfeed : (s.modChan a.ch fun x => x.feed).modChan a.ch (fun x => x.analyse s.cfg a.floorDb) =
        s.modChan a.ch fun x => x.feed.analyse s.cfg a.floorDb := modChan_modChan _ _ _ _ hn
    have h := ih (s := s.modChan a.ch fun x => x.feed.analyse s.cfg a.floorDb) (by rwa [modChan_nch]) hcur
    rw [pollRun, modChan_modChan _ _ _ _ hn, ← hfeed] at h
    exact .step (.step h)

end State

/-! ## Every command -/

/-- A command that passes its checks, cut and then run to its end, leaves what it does whole. -/
theorem effect_settlesTo {i : Instr} {s t : State} (hc : causeOf i s = none) (hsplit : s.turn.split = true)
    (h : effect i s = .next t) : ∃ w, effect i s.whole = .next w ∧ State.SettlesTo s.cur t w := by
  obtain ⟨hsel, -, hprep, hwritten, hop⟩ := (causeOf_eq_none i s).1 hc
  cases i with
  | fprep ch k cap =>
    obtain ⟨kind, hkind, -⟩ := State.fifoSel_isSome hsel
    simp only [effect, hkind] at h ⊢
    rcases of_ite_eq h with ⟨-, h⟩ | ⟨hopen, h⟩ <;> cases h
    exact ⟨_, if_neg hopen, .finish rfl rfl⟩
  | fpush ch k item =>
    obtain ⟨kind, hkind, hfifo, -⟩ := State.fifoSel_isSome hsel
    simp only [operandsOk, hkind, hfifo] at hop
    obtain ⟨x, hx⟩ := Option.isSome_iff_exists.1 hop
    have hx' : itemOfPayload kind ((s.whole.chan ch.toNat).fifo kind).shape item = some x := hx
    simp only [effect, hkind, hx, hx'] at h ⊢
    cases h
    exact ⟨_, rfl, State.settlesTo_beginPush hsplit _ _⟩
  | fpull ch k =>
    obtain ⟨kind, hkind, -⟩ := State.fifoSel_isSome hsel
    simp only [effect, hkind] at h ⊢
    cases h
    exact ⟨_, rfl, State.settlesTo_beginPull hsplit _ _⟩
  | favail ch k | fovf ch k =>
    obtain ⟨kind, hkind, -⟩ := State.fifoSel_isSome hsel
    simp only [effect, hkind] at h ⊢
    cases h
    exact ⟨_, rfl, .finish rfl rfl⟩
  | chord ch ord =>
    simp only [operandsOk, ← orderOf_isSome] at hop
    obtain ⟨o, ho⟩ := Option.isSome_iff_exists.1 hop
    simp only [effect, ho] at h ⊢
    cases h
    exact ⟨_, rfl, .finish rfl rfl⟩
  | rfeed ch =>
    cases h
    exact ⟨_, rfl, State.settlesTo_beginFeed hsplit _⟩
  | cgen ch bx bt bw bh binWidthHz floorDb =>
    rcases of_ite_eq h with ⟨hempty, h⟩ | ⟨hempty, h⟩ <;> cases h
    · exact ⟨_, if_pos hempty, .finish rfl rfl⟩
    · exact ⟨_, if_neg hempty, .finish rfl rfl⟩
  | spec ch floorDb | cget ch | rdcrv ch | apply | tclr =>
    cases h
    exact ⟨_, rfl, .finish rfl rfl⟩
  | ccoef fs =>
    cases h
    exact ⟨_, rfl, .finish (State.tickDesign_cur s fs) (by rw [State.whole_tickDesign]; rfl)⟩
  | snap =>
    cases h
    exact ⟨_, rfl, .finish (State.latchSettings_cur s) (by rw [State.whole_latchSettings]; rfl)⟩
  | proc n samples =>
    simp only [effect, hsplit, if_true] at h
    cases h
    refine ⟨_, rfl, .step (.finish (State.takeCoeffs_cur s) ?_)⟩
    rw [State.whole_takeCoeffs]
    rfl
  | rdcoef =>
    obtain ⟨c, hnewc⟩ := Option.isSome_iff_exists.1 hprep
    have hnewc' : s.whole.newc = some c := hnewc
    simp only [effect, hnewc, hnewc'] at h ⊢
    cases h
    exact ⟨_, rfl, .finish rfl rfl⟩
  | wrr r v =>
    cases hr : regOf s.nch r with
    | none => simp [selectorsOk, hr] at hsel
    | some reg =>
      have hr' : regOf s.whole.nch r = some reg := hr
      obtain ⟨-, -, -, hturn⟩ := State.writeReg_frame s reg v
      simp only [effect, hr, hr'] at h ⊢
      cases h
      exact ⟨_, rfl, .finish (congrArg Turn.port hturn) (by rw [State.whole_writeReg]; rfl)⟩
  | rdr r =>
    obtain ⟨reg, hr⟩ := Option.isSome_iff_exists.1 hsel
    simp only [writtenOk, hr] at hwritten
    obtain ⟨v, hv⟩ := Option.isSome_iff_exists.1 hwritten
    have hr' : regOf s.whole.nch r = some reg := hr
    have hv' : s.whole.readReg reg = some v := by rw [← hv]; cases reg <;> rfl
    simp only [effect, hr, hv, hr', hv'] at h ⊢
    cases h
    exact ⟨_, rfl, .finish rfl rfl⟩
  | tick fs =>
    cases hp : s.pchg with
    | false =>
      have hp' : s.whole.pchg = false := hp
      simp only [effect, hp, hp', Bool.not_false, if_true] at h ⊢
      cases h
      exact ⟨_, rfl, .finish rfl rfl⟩
    | true =>
      have hp' : s.whole.pchg = true := hp
      have hcut : s.whole.turn.split = false := rfl
      have hclear : s.whole.clearPchg = s.clearPchg.whole := rfl
      simp only [effect, hp, hp', hsplit, hcut, Bool.not_true, Bool.false_eq_true, if_false, if_true] at h ⊢
      cases h
      refine ⟨_, rfl, .step (.step (.step (.finish ?_ ?_)))⟩
      · simp
      · rw [hclear, State.whole_latchSettings, State.whole_tickDesign]
        rfl
  | poll ch fs bx bt bw bh =>
    simp only [effect, hsplit, if_true] at h
    cases h
    exact ⟨_, rfl, State.settlesTo_pollFeed (State.channelSel_isSome.1 hsel) rfl _⟩

/-- A command, cut and then run to its end, answers what it does whole: a refusal ends it at once. -/
theorem exec_whole {i : Instr} {s t : State} (hsplit : s.turn.split = true) (h : exec i s = .next t) :
    ∃ w, exec i s.whole = .next w ∧ State.SettlesTo s.cur t w := by
  rw [exec_eq i s.whole, causeOf_whole]
  rcases exec_next i s t h with ⟨c, hc, rfl⟩ | ⟨hc, he⟩ <;> rw [hc]
  · exact ⟨_, rfl, .finish (State.latchErr_cur s c i.word) (State.whole_raise s c i.word)⟩
  · exact effect_settlesTo hc hsplit he

/-- Settles O24: command by command, the steps after the first one by one. -/
theorem cutEqualsWhole : Obligations.CutEqualsWhole := by
  intro i s t h
  obtain ⟨w, hw, n, rfl, hbusy⟩ := exec_whole (s := { s with turn := { s.turn with split := true } }) rfl h
  exact ⟨n, hw, hbusy⟩

end Sys2Proof.Machine

/-! # Words on the transport and in memory (R11, R61) -/

namespace Sys2Proof

/-- The four bytes of a word, put together in transport order, are the word. -/
theorem wordOfBytes_bytesOfWord (w : Word) :
    wordOfBytes (w.extractLsb' 0 8) (w.extractLsb' 8 8) (w.extractLsb' 16 8) (w.extractLsb' 24 8) = w := by
  rw [wordOfBytes, BitVec.extractLsb'_append_extractLsb'_eq_extractLsb' (start₂ := 24) (start₁ := 16) rfl,
    BitVec.extractLsb'_append_extractLsb'_eq_extractLsb' (start₂ := 16) (start₁ := 8) rfl,
    BitVec.extractLsb'_append_extractLsb'_eq_extractLsb' (start₂ := 8) (start₁ := 0) rfl]
  exact BitVec.extractLsb'_eq_self

/-- The words of the byte stream of a word list are that list (R61). -/
theorem deserialise_serialise (ws : List Word) : deserialise (serialise ws) = ws := by
  induction ws with
  | nil => rfl
  | cons w ws ih =>
    change wordOfBytes _ _ _ _ :: deserialise (serialise ws) = w :: ws
    rw [ih, wordOfBytes_bytesOfWord]

namespace Binary32

/-! ## The value of a word by its exponent bits (R11, R61) -/

theorem value_of_normal {w : Word} (h0 : 0 < exponentBits w) (h1 : exponentBits w < 255) :
    value w = .fin ((if w.getLsbD 31 then -1 else 1) * (2 ^ 23 + ((w.extractLsb' 0 23).toNat : ℚ)) *
      (2 : ℚ) ^ ((exponentBits w : ℤ) - 150)) := by
  have hexp : ((exponentBits w - 1 : ℕ) : ℤ) - 149 = (exponentBits w : ℤ) - 150 := by omega
  rw [value_of_exponentBits h1.ne, significand, if_neg h0.ne', ulp, hexp]
  unfold signOf
  push_cast
  rfl

theorem value_of_subnormal {w : Word} (h : exponentBits w = 0) :
    value w = .fin ((if w.getLsbD 31 then -1 else 1) * ((w.extractLsb' 0 23).toNat : ℚ) * (2 : ℚ) ^ (-149 : ℤ)) := by
  rw [value_of_exponentBits (by omega), significand, if_pos h, h]
  unfold signOf ulp
  push_cast
  rfl

theorem value_of_infinity {w : Word} (he : exponentBits w = 255) (hf : (w.extractLsb' 0 23).toNat = 0) :
    value w = if w.getLsbD 31 then .negInf else .posInf := (if_pos he).trans (if_pos hf)

theorem value_of_nan {w : Word} (he : exponentBits w = 255) (hf : (w.extractLsb' 0 23).toNat ≠ 0) :
    value w = .nan := (if_pos he).trans (if_neg hf)

end Binary32

/-- Settles O6: the transport by induction on the words, the values by the class of the exponent bits. -/
theorem wordFormats : Obligations.WordFormats :=
  ⟨fun _ => rfl, deserialise_serialise, fun _ =>
    ⟨Binary32.value_of_infinity, Binary32.value_of_nan, Binary32.value_of_normal, Binary32.value_of_subnormal⟩⟩

end Sys2Proof

/-! # Pushes and pulls in any order (R120, R121, R129) -/

namespace Sys2Proof.Machine

namespace Fifo

variable {α : Type} {d : α} {q : Fifo α}

/-! ## One operation of a run -/

theorem push_of_full (h : q.full = true) (x : α) : q.push x = q.countDrop := if_pos h

theorem push_of_room (h : q.full = false) (x : α) : q.push x = (q.copyIn x).publish := if_neg (ne_true_of_eq_false h)

theorem push_prepared (q : Fifo α) (x : α) : (q.push x).prepared = q.prepared := by
  cases h : q.full with
  | true => rw [push_of_full h]; rfl
  | false => rw [push_of_room h]; rfl

theorem push_cap (q : Fifo α) (x : α) : (q.push x).cap = q.cap := by
  cases h : q.full with
  | true => rw [push_of_full h]; rfl
  | false => rw [push_of_room h]; rfl

theorem runOps_push_full (h : q.full = true) (x : α) (ops : List (Option α)) :
    q.runOps d (some x :: ops) = (q.push x).runOps d ops := if_pos h

theorem runOps_push_room (h : q.full = false) (x : α) (ops : List (Option α)) :
    q.runOps d (some x :: ops) =
      (((q.push x).runOps d ops).1, x :: ((q.push x).runOps d ops).2.1, ((q.push x).runOps d ops).2.2) :=
  if_neg (ne_true_of_eq_false h)

theorem runOps_pull_empty (h : q.readable = 0) (ops : List (Option α)) :
    q.runOps d (none :: ops) = q.runOps d ops := if_pos h

theorem runOps_pull (h : 0 < q.readable) (ops : List (Option α)) :
    q.runOps d (none :: ops) =
      ((q.free.runOps d ops).1, (q.free.runOps d ops).2.1, q.front d :: (q.free.runOps d ops).2.2) :=
  if_neg h.ne'

/-! ## What is pulled is what was queued or accepted, in order -/

theorem runOps_conserves {cmax : Nat} (ops : List (Option α)) (hp : q.prepared = true) (hq : q.Ok cmax) :
    q.queued d ++ (q.runOps d ops).2.1 = (q.runOps d ops).2.2 ++ (q.runOps d ops).1.queued d := by
  induction ops generalizing q with
  | nil => exact List.append_nil _
  | cons op ops ih =>
    cases op with
    | some x =>
      have hpush := ih ((q.push_prepared x).trans hp) (push_ok hp hq x)
      cases hfull : q.full with
      | true =>
        rw [runOps_push_full hfull, ← hpush, push_of_full hfull]
        rfl
      | false =>
        rw [runOps_push_room hfull, ← hpush, queued_push d x hp hfull hq, List.append_assoc]
        rfl
    | none =>
      rcases Nat.eq_zero_or_pos q.readable with hempty | hr
      · rw [runOps_pull_empty hempty]
        exact ih hp hq
      · have hfree := ih (q := q.free) hp (free_ok hp hr hq)
        rw [runOps_pull hr, queued_free d q hr, List.cons_append, hfree]
        rfl

/-! ## Pushes, then pulls -/

/-- What later operations pull does not depend on whether the pushes before them were accepted, only on the FIFO they
left. -/
theorem runOps_pushes_pulled (xs : List α) (ops : List (Option α)) :
    (q.runOps d (xs.map some ++ ops)).2.2 = ((xs.foldl push q).runOps d ops).2.2 := by
  induction xs generalizing q with
  | nil => rfl
  | cons x xs ih =>
    rw [List.map_cons, List.cons_append, List.foldl_cons, ← ih]
    cases hfull : q.full with
    | true => rw [runOps_push_full hfull]
    | false => rw [runOps_push_room hfull]

theorem queued_pushes {cmax : Nat} (xs : List α) (hp : q.prepared = true) (hq : q.Ok cmax)
    (hroom : q.readable + xs.length ≤ q.cap) : (xs.foldl push q).queued d = q.queued d ++ xs := by
  induction xs generalizing q with
  | nil => exact (List.append_nil _).symm
  | cons x xs ih =>
    rw [List.length_cons] at hroom
    have hfull : q.full = false := decide_eq_false (by omega)
    have hqueued := queued_push d x hp hfull hq
    have hr : (q.push x).readable = q.readable + 1 := by
      rw [← queued_length d, hqueued, List.length_append, queued_length, List.length_singleton]
    rw [List.foldl_cons, ih ((q.push_prepared x).trans hp) (push_ok hp hq x), hqueued, List.append_assoc]
    · rfl
    · rw [hr, push_cap]
      omega

theorem runOps_pulls (n : Nat) (h : n = q.readable) : (q.runOps d (List.replicate n none)).2.2 = q.queued d := by
  induction n generalizing q with
  | zero => exact (List.length_eq_zero_iff.1 ((queued_length d q).trans h.symm)).symm
  | succ n ih =>
    have hr : 0 < q.readable := h ▸ n.succ_pos
    rw [List.replicate_succ, runOps_pull hr, queued_free d q hr, ih]
    rw [free_readable, ← h]
    rfl

end Fifo

/-- Settles O20: by induction on the operations; N pushes leave a queue of the N elements, which N pulls empty. -/
theorem fifoLaw : Obligations.FifoLaw := by
  intro α d cmax q hp hq
  refine ⟨fun ops => Fifo.runOps_conserves ops hp hq, fun xs hempty hlen => ?_, fun h => Fifo.runOps_pull_empty h []⟩
  have hnil : q.queued d = [] := List.length_eq_zero_iff.1 ((Fifo.queued_length d q).trans hempty)
  have hqueued : (xs.foldl Fifo.push q).queued d = xs := by
    rw [Fifo.queued_pushes xs hp hq (by omega), hnil, List.nil_append]
  rw [Fifo.runOps_pushes_pulled, Fifo.runOps_pulls xs.length, hqueued]
  rw [← Fifo.queued_length d, hqueued]

end Sys2Proof.Machine

/-! # The ring buffer commands (R99, R124 to R128) -/

namespace Sys2Proof.Machine

/-! ## Selectors and payloads -/

theorem State.fifoSel_of_kind {s : State} {ch : BitVec 4} {k : BitVec 2} {kind : FifoKind} (hk : fifoKind k = some kind)
    (hn : ch.toNat < s.nch) : s.fifoSel ch k = some (ch.toNat, kind) :=
  (State.fifoSel_eq_some ..).2 ⟨hk, channelSel_of_lt s ch hn⟩

theorem wordsOfPoints_eq_flatMap (ps : List (Point Word)) : wordsOfPoints ps = ps.flatMap fun p => [p.x, p.y] := by
  induction ps with
  | nil => rfl
  | cons p ps ih => exact congrArg ([p.x, p.y] ++ ·) ih

theorem wordsOfPoints_length (ps : List (Point Word)) : (wordsOfPoints ps).length = 2 * ps.length := by
  induction ps with
  | nil => rfl
  | cons p ps ih =>
    change (wordsOfPoints ps).length + 2 = 2 * (ps.length + 1)
    omega

/-- The points of a polyline come back from its words (R97, R99). -/
theorem pointsOfWords_wordsOfPoints (ps : List (Point Word)) : pointsOfWords (wordsOfPoints ps) = ps := by
  induction ps with
  | nil => rfl
  | cons p ps ih => exact congrArg (p :: ·) ih

/-- The payload that answers a pull of a polyline is accepted by a push (R97, R99). -/
theorem itemOfPayload_curve (shape : Nat) {ps : List (Point Word)} (h : ps.length ≤ pmax) :
    itemOfPayload .cf shape (Item.curve ps).words = some (.curve ps) := by
  have hnp : ((BitVec.ofNat 32 ps.length).extractLsb' 0 13).toNat = ps.length := by
    have hp : ps.length ≤ 4096 := h
    rw [BitVec.extractLsb'_toNat, BitVec.toNat_ofNat, Nat.shiftRight_zero]
    omega
  have hzero : (BitVec.ofNat 32 ps.length).extractLsb' 13 19 = 0 := by
    have hp : ps.length ≤ 4096 := h
    refine BitVec.eq_of_toNat_eq ?_
    rw [BitVec.extractLsb'_toNat, BitVec.toNat_ofNat, Nat.shiftRight_eq_div_pow]
    change ps.length % 2 ^ 32 / 2 ^ 13 % 2 ^ 19 = 0
    omega
  have hlen : (wordsOfPoints ps).length = 2 * ((BitVec.ofNat 32 ps.length).extractLsb' 0 13).toNat := by
    rw [hnp, wordsOfPoints_length]
  exact (if_pos ⟨hzero, hnp.trans_le h, hlen⟩).trans (congrArg (some ∘ Item.curve) (pointsOfWords_wordsOfPoints ps))

/-! ## What each command answers when its checks pass (R273) -/

section

variable {s : State} {ch : BitVec 4} {k : BitVec 2} {kind : FifoKind}

theorem exec_fprep {cap : BitVec 18} (hk : fifoKind k = some kind) (hcur : s.cur = .B) (hn : ch.toNat < s.nch)
    (hmf : kind = .mf → (s.chan ch.toNat).ord.isSome = true)
    (hsf : kind = .sf → s.blkLen.isSome = true ∧ s.pushInFlight ch.toNat = false) (h0 : 0 < cap.toNat)
    (h1 : cap.toNat ≤ s.cfg.cmax) :
    exec (.fprep ch k cap) s = .next
      ((s.modChan ch.toNat fun x => x.prepare s.cfg.num cap.toNat (s.latchedShape ch.toNat kind) kind).finish
        (respond .ok 0)) := by
  have hcap : cap ≠ 0#18 := fun h => by simp [h] at h0
  have hroom : ¬ s.cfg.cmax < cap.toNat := Nat.not_lt.2 h1
  simp only [exec, execFprep, State.fifoSel_of_kind hk hn]
  rw [guarded_pass]
  · cases kind with
    | sf => simp [hsf rfl]
    | mf | cf => rfl
  · cases kind with
    | sf => simp [hcur, hcap, hroom, (hsf rfl).1]
    | mf => simp [hcur, hcap, hroom, hmf rfl]
    | cf => simp [hcur, hcap, hroom]

theorem exec_fpush {item : List Word} {x : Item} (hk : fifoKind k = some x.kind) (hcur : s.cur = x.kind.producer)
    (hn : ch.toNat < s.nch) (hp : ((s.chan ch.toNat).fifo x.kind).prepared = true)
    (hx : itemOfPayload x.kind ((s.chan ch.toNat).fifo x.kind).shape item = some x) :
    exec (.fpush ch k item) s = .next (s.beginPush ch.toNat x) := by
  simp only [exec, execFpush, State.fifoSel_of_kind hk hn]
  rw [guarded_pass]
  · rw [hx]
  · simp [hcur, hp]

theorem exec_fpull (hk : fifoKind k = some kind) (hcur : s.cur = .B) (hn : ch.toNat < s.nch)
    (hp : ((s.chan ch.toNat).fifo kind).prepared = true) :
    exec (.fpull ch k) s = .next (s.beginPull ch.toNat kind) := by
  have hconsumer : kind.consumer = .B := by cases kind <;> rfl
  simp only [exec, execFpull, State.fifoSel_of_kind hk hn]
  rw [guarded_pass]
  simp [hcur, hp, hconsumer]

/-! ## Whole pushes and pulls (R76, R125, R126) -/

section

variable {item : List Word} {x : Item} (hk : fifoKind k = some x.kind) (hcur : s.cur = x.kind.producer)
  (hn : ch.toNat < s.nch) (hp : ((s.chan ch.toNat).fifo x.kind).prepared = true)
  (hx : itemOfPayload x.kind ((s.chan ch.toNat).fifo x.kind).shape item = some x)

include hk hcur hn hp hx

theorem exec_fpush_room (hroom : ((s.chan ch.toNat).fifo x.kind).full = false) (hsplit : s.turn.split = false) :
    exec (.fpush ch k item) s =
      .next ((s.modChan ch.toNat fun c => (c.copyIn x).publish x.kind).finish (respond .ok 0)) := by
  rw [exec_fpush hk hcur hn hp hx, State.beginPush, if_neg (by simp [hroom]), if_neg (by simp [hsplit]),
    State.pushCopy, State.pushPublish, State.modChan_modChan _ _ _ _ hn]

theorem exec_fpush_full (hfull : ((s.chan ch.toNat).fifo x.kind).full = true) :
    exec (.fpush ch k item) s = .next ((s.modChan ch.toNat fun c => c.countDrop x.kind).finish (respond .dropped 0)) := by
  rw [exec_fpush hk hcur hn hp hx, State.beginPush, if_pos hfull]

end

section

variable (hk : fifoKind k = some kind) (hcur : s.cur = .B) (hn : ch.toNat < s.nch)
  (hp : ((s.chan ch.toNat).fifo kind).prepared = true)

include hk hcur hn hp

theorem exec_fpull_some (hr : ((s.chan ch.toNat).fifo kind).rd < ((s.chan ch.toNat).fifo kind).wr)
    (hsplit : s.turn.split = false) :
    exec (.fpull ch k) s =
      .next ((s.modChan ch.toNat fun c => c.free kind).finish (pullResponse ((s.chan ch.toNat).front kind))) := by
  have hsome : ((s.chan ch.toNat).fifo kind).readable ≠ 0 := (Nat.sub_pos_of_lt hr).ne'
  rw [exec_fpull hk hcur hn hp, State.beginPull, if_neg hsome, if_neg (by simp [hsplit]), State.pullFree, Channel.front_kind]

theorem exec_fpull_empty (hr : ((s.chan ch.toNat).fifo kind).wr ≤ ((s.chan ch.toNat).fifo kind).rd) :
    exec (.fpull ch k) s = .next (s.finish (respond .empty 0)) := by
  have hnone : ((s.chan ch.toNat).fifo kind).readable = 0 := Nat.sub_eq_zero_of_le hr
  rw [exec_fpull hk hcur hn hp, State.beginPull, if_pos hnone]

end

end

theorem State.latchedShape_of_blkLen {s : State} {ch : Nat} {n : BitVec 14} (h : s.blkLen = some n) :
    s.latchedShape ch .sf = n.toNat := by
  rw [State.latchedShape, h]

theorem State.latchedShape_of_ord {s : State} {ch : Nat} {o : Order} (h : (s.chan ch).ord = some o) :
    s.latchedShape ch .mf = o.size / 2 := by
  rw [State.latchedShape, h]

theorem Fifo.front_of_slot {α : Type} {q : Fifo α} {d x : α} (h : q.slots[q.rd % q.cap]? = some x) : q.front d = x := by
  rw [Fifo.front, List.getD_eq_getElem?_getD, h, Option.getD_some]

theorem pullResponse_curve (ps : List (Point Word)) :
    pullResponse (.curve ps) = respondWith (1 + 2 * ps.length) (BitVec.ofNat 32 ps.length :: ps.flatMap fun p => [p.x, p.y]) := by
  rw [← wordsOfPoints_eq_flatMap, ← wordsOfPoints_length, Nat.add_comm]
  rfl

/-- Settles O15: the latched shape is the block length, half the transform size, or 0. -/
theorem fprepResult : Obligations.FprepResult := by
  intro s ch cap hcur hn h0 h1
  refine ⟨fun n hblk hopen => ?_, fun o ho => ?_, ?_⟩
  · refine ⟨List.replicate cap.toNat (List.replicate n.toNat (resetZero s.cfg.num)), List.length_replicate, ?_⟩
    rw [exec_fprep (kind := .sf) rfl hcur hn nofun (fun _ => ⟨by rw [hblk]; rfl, hopen⟩) h0 h1,
      State.latchedShape_of_blkLen hblk]
    rfl
  · refine ⟨List.replicate cap.toNat (List.replicate (o.size / 2) (resetZero s.cfg.num)), List.length_replicate, ?_⟩
    rw [exec_fprep (kind := .mf) rfl hcur hn (fun _ => by rw [ho]; rfl) nofun h0 h1,
      State.latchedShape_of_ord ho]
    rfl
  · refine ⟨List.replicate cap.toNat [], List.length_replicate, ?_⟩
    rw [exec_fprep (kind := .cf) rfl hcur hn nofun nofun h0 h1]
    rfl

/-- Settles O17: the payload is an element of the FIFO, which is stored or dropped. -/
theorem fpushResult : Obligations.FpushResult := by
  refine ⟨?_, ?_, ?_⟩
  · intro s ch xs c hcur hn hp hlen
    have hx : itemOfPayload .sf c.sf.shape xs = some (.samples xs) := if_pos hlen
    exact ⟨fun hroom => exec_fpush_room (x := .samples xs) rfl hcur hn hp hx (c.sf.full_eq_false.2 hroom),
      fun hfull => exec_fpush_full (x := .samples xs) rfl hcur hn hp hx (c.sf.full_eq_true.2 hfull)⟩
  · intro s ch db c hcur hn hp hlen
    have hx : itemOfPayload .mf c.mf.shape db = some (.spectrum db) := if_pos hlen
    exact ⟨fun hroom => exec_fpush_room (x := .spectrum db) rfl hcur hn hp hx (c.mf.full_eq_false.2 hroom),
      fun hfull => exec_fpush_full (x := .spectrum db) rfl hcur hn hp hx (c.mf.full_eq_true.2 hfull)⟩
  · intro s ch ps c item hcur hn hp hlen
    have hx : itemOfPayload .cf c.cf.shape item = some (.curve ps) := by
      have hitem : item = (Item.curve ps).words :=
        congrArg (BitVec.ofNat 32 ps.length :: ·) (wordsOfPoints_eq_flatMap ps).symm
      rw [hitem]
      exact itemOfPayload_curve c.cf.shape hlen
    exact ⟨fun hroom => exec_fpush_room (x := .curve ps) rfl hcur hn hp hx (c.cf.full_eq_false.2 hroom),
      fun hfull => exec_fpush_full (x := .curve ps) rfl hcur hn hp hx (c.cf.full_eq_true.2 hfull)⟩

/-- Settles O18: the element is the one at the head of the FIFO. -/
theorem fpullResult : Obligations.FpullResult := by
  refine ⟨?_, ?_, ?_, fun s ch k kind hk hcur hn hp => exec_fpull_empty hk hcur hn hp⟩
  · intro s ch xs c hcur hn hp hr hsplit hslot
    rw [exec_fpull_some (kind := .sf) rfl hcur hn hp hr hsplit, Channel.front, Fifo.front_of_slot hslot]
    rfl
  · intro s ch db c hcur hn hp hr hsplit hslot
    rw [exec_fpull_some (kind := .mf) rfl hcur hn hp hr hsplit, Channel.front, Fifo.front_of_slot hslot]
    rfl
  · intro s ch ps c hcur hn hp hr hsplit hslot
    rw [exec_fpull_some (kind := .cf) rfl hcur hn hp hr hsplit, Channel.front, Fifo.front_of_slot hslot,
      pullResponse_curve]
    rfl

/-- Settles O19: producer and consumer are told the one readable count, and the overflow counter has no check but its
selector. -/
theorem favailFovfResult : Obligations.FavailFovfResult := by
  intro s ch k kind hk hn q
  refine ⟨fun hp hport => ?_, ?_⟩
  · simp only [exec, execFavail, State.fifoSel_of_kind hk hn]
    refine guarded_pass _ _ _ _ ?_
    rcases hport with hb | ⟨ha, rfl⟩
    · have hconsumer : kind.consumer = .B := by cases kind <;> rfl
      simpa [hb, hconsumer] using hp
    · simpa [ha, FifoKind.producer] using hp
  · simp only [exec, execFovf, State.fifoSel_of_kind hk hn]
    rfl

end Sys2Proof.Machine

/-! # What a command makes of each channel (R124 to R126, R142, R158, R160, R186, R187, R214, R250) -/

namespace Sys2Proof.Machine

/-! ## Pushes and pulls, whole -/

namespace Fifo

variable {α : Type} {q q' : Fifo α}

/-- No cursor goes back, and the overflow counter does not; it saturates (R121, R130). -/
def CursorsLe (q q' : Fifo α) : Prop := q.wr ≤ q'.wr ∧ q.rd ≤ q'.rd ∧ sat28 q.ovf ≤ sat28 q'.ovf

/-- What whole pushes and pulls do to a FIFO: they move its cursors and its counter on, and store to the slots of the
sequence numbers they publish. -/
def Worked (q q' : Fifo α) : Prop :=
  q' = { q with slots := q'.slots, wr := q'.wr, rd := q'.rd, ovf := q'.ovf } ∧ q.CursorsLe q' ∧
    ∀ j, (∀ n, q.wr ≤ n → n < q'.wr → j ≠ n % q.cap) → q'.slots[j]? = q.slots[j]?

/-- What one push may change of the slots: slot `wr mod C` alone, and none of a full FIFO (R125). -/
def PushFrame (q q' : Fifo α) : Prop :=
  (∀ j, j ≠ q.wr % q.cap → q'.slots[j]? = q.slots[j]?) ∧ (q.cap ≤ q.wr - q.rd → q'.slots = q.slots)

theorem CursorsLe.refl (q : Fifo α) : q.CursorsLe q := ⟨le_rfl, le_rfl, le_rfl⟩

theorem CursorsLe.trans {q'' : Fifo α} (h : q.CursorsLe q') (h' : q'.CursorsLe q'') : q.CursorsLe q'' := by
  obtain ⟨hwr, hrd, hovf⟩ := h
  obtain ⟨hwr', hrd', hovf'⟩ := h'
  exact ⟨hwr.trans hwr', hrd.trans hrd', hovf.trans hovf'⟩

theorem countDrop_cursorsLe (q : Fifo α) : q.CursorsLe q.countDrop := by
  refine ⟨le_rfl, le_rfl, ?_⟩
  change min q.ovf _ ≤ min (min (q.ovf + 1) _) _
  omega

theorem publish_cursorsLe (q : Fifo α) : q.CursorsLe q.publish := ⟨Nat.le_succ _, le_rfl, le_rfl⟩

theorem free_cursorsLe (q : Fifo α) : q.CursorsLe q.free := ⟨le_rfl, Nat.le_succ _, le_rfl⟩

theorem Worked.refl (q : Fifo α) : q.Worked q := ⟨rfl, .refl q, fun _ _ => rfl⟩

theorem Worked.trans {q'' : Fifo α} (h : q.Worked q') (h' : q'.Worked q'') : q.Worked q'' := by
  obtain ⟨heq, hle, hslots⟩ := h
  obtain ⟨heq', hle', hslots'⟩ := h'
  have hcap : q'.cap = q.cap := by rw [heq]
  refine ⟨?_, hle.trans hle', fun j hj => ?_⟩
  · rw [heq] at heq'
    exact heq'
  · refine (hslots' j fun n h0 h1 => ?_).trans (hslots j fun n h0 h1 => hj n h0 (h1.trans_le hle'.1))
    rw [hcap]
    exact hj n (hle.1.trans h0) h1

theorem worked_free (q : Fifo α) : q.Worked q.free := ⟨rfl, free_cursorsLe q, fun _ _ => rfl⟩

theorem worked_push (q : Fifo α) (x : α) : q.Worked (q.push x) := by
  cases hfull : q.full with
  | true =>
    rw [push_of_full hfull]
    exact ⟨rfl, countDrop_cursorsLe q, fun _ _ => rfl⟩
  | false =>
    rw [push_of_room hfull]
    refine ⟨rfl, publish_cursorsLe q, fun j hj => List.getElem?_set_ne (Ne.symm ?_)⟩
    exact hj q.wr le_rfl (Nat.lt_succ_self _)

theorem PushFrame.refl (q : Fifo α) : q.PushFrame q := ⟨fun _ _ => rfl, fun _ => rfl⟩

theorem pushFrame_push (q : Fifo α) (x : α) : q.PushFrame (q.push x) := by
  cases hfull : q.full with
  | true =>
    rw [push_of_full hfull]
    exact .refl q
  | false =>
    rw [push_of_room hfull]
    exact ⟨fun j hj => List.getElem?_set_ne (Ne.symm hj), fun hcap => nomatch hfull.symm.trans (q.full_eq_true.2 hcap)⟩

theorem push_frame (q : Fifo α) (x : α) :
    q.push x = { q with slots := (q.push x).slots, wr := (q.push x).wr, ovf := (q.push x).ovf } := by
  cases hfull : q.full with
  | true => rw [push_of_full hfull]; rfl
  | false => rw [push_of_room hfull]; rfl

end Fifo

namespace Channel

variable {c c' c'' : Channel}

/-! ### Each whole operation changes one FIFO -/

theorem push_samples (c : Channel) (xs : List Word) : c.push (.samples xs) = { c with sf := c.sf.push xs } := by
  cases hfull : c.sf.full with
  | true => rw [Fifo.push_of_full hfull]; exact if_pos hfull
  | false => rw [Fifo.push_of_room hfull]; exact if_neg (ne_true_of_eq_false hfull)

theorem push_spectrum (c : Channel) (db : List Word) : c.push (.spectrum db) = { c with mf := c.mf.push db } := by
  cases hfull : c.mf.full with
  | true => rw [Fifo.push_of_full hfull]; exact if_pos hfull
  | false => rw [Fifo.push_of_room hfull]; exact if_neg (ne_true_of_eq_false hfull)

theorem push_curve (c : Channel) (ps : List (Point Word)) : c.push (.curve ps) = { c with cf := c.cf.push ps } := by
  cases hfull : c.cf.full with
  | true => rw [Fifo.push_of_full hfull]; exact if_pos hfull
  | false => rw [Fifo.push_of_room hfull]; exact if_neg (ne_true_of_eq_false hfull)

theorem analyse_eq (cfg : Config) (f : Word) (c : Channel) :
    c.analyse cfg f = { c with mf := c.mf.push (spectrumOf cfg c.size c.win f) } := push_spectrum c _

theorem genCurve_eq (F : NumFormat) (stride : Nat) (bt bw bh b f : Word) (c : Channel) :
    c.genCurve F stride bt bw bh b f = { c with mf := c.mf.free, cf := c.cf.push (c.headCurve F stride bt bw bh b f) } :=
  push_curve (c.free .mf) _

/-! ### Whole operations one after another -/

/-- No cursor and no overflow counter of the channel goes back. -/
def CursorsLe (c c' : Channel) : Prop := ∀ k, (c.fifo k).CursorsLe (c'.fifo k)

/-- Whole pushes and pulls, the shifts of blocks into the window, and curves kept: what `POLL` does to a channel. -/
def Worked (c c' : Channel) : Prop :=
  c' = { c with sf := c'.sf, win := c'.win, mf := c'.mf, cf := c'.cf, curve := c'.curve } ∧ c.sf.Worked c'.sf ∧
    c.mf.Worked c'.mf ∧ c.cf.Worked c'.cf

theorem CursorsLe.refl (c : Channel) : c.CursorsLe c := fun _ => .refl _

theorem Worked.cursorsLe (h : c.Worked c') : c.CursorsLe c' := by
  obtain ⟨-, ⟨-, hsf, -⟩, ⟨-, hmf, -⟩, -, hcf, -⟩ := h
  intro k
  cases k with
  | sf => exact hsf
  | mf => exact hmf
  | cf => exact hcf

theorem Worked.z_eq (h : c.Worked c') : c'.z = c.z := by rw [h.1]

theorem Worked.refl (c : Channel) : c.Worked c := ⟨rfl, .refl _, .refl _, .refl _⟩

theorem Worked.trans (h : c.Worked c') (h' : c'.Worked c'') : c.Worked c'' := by
  obtain ⟨heq, hsf, hmf, hcf⟩ := h
  obtain ⟨heq', hsf', hmf', hcf'⟩ := h'
  refine ⟨?_, hsf.trans hsf', hmf.trans hmf', hcf.trans hcf'⟩
  rw [heq] at heq'
  exact heq'

theorem worked_push (c : Channel) (x : Item) : c.Worked (c.push x) := by
  cases x with
  | samples xs => rw [push_samples]; exact ⟨rfl, c.sf.worked_push xs, .refl _, .refl _⟩
  | spectrum db => rw [push_spectrum]; exact ⟨rfl, .refl _, c.mf.worked_push db, .refl _⟩
  | curve ps => rw [push_curve]; exact ⟨rfl, .refl _, .refl _, c.cf.worked_push ps⟩

theorem worked_free (c : Channel) (k : FifoKind) : c.Worked (c.free k) := by
  cases k with
  | sf => exact ⟨rfl, c.sf.worked_free, .refl _, .refl _⟩
  | mf => exact ⟨rfl, .refl _, c.mf.worked_free, .refl _⟩
  | cf => exact ⟨rfl, .refl _, .refl _, c.cf.worked_free⟩

theorem worked_takeBlock (c : Channel) (blk : List Word) : c.Worked (c.takeBlock blk) :=
  ⟨rfl, c.sf.worked_free, .refl _, .refl _⟩

theorem worked_analyse (cfg : Config) (f : Word) (c : Channel) : c.Worked (c.analyse cfg f) := worked_push c _

theorem worked_genCurve (F : NumFormat) (stride : Nat) (bt bw bh b f : Word) (c : Channel) :
    c.Worked (c.genCurve F stride bt bw bh b f) := (worked_free c .mf).trans (worked_push _ _)

theorem worked_drainCurves (n : Nat) (c : Channel) : c.Worked (drainCurves n c) := by
  induction n generalizing c with
  | zero => exact .refl c
  | succ n ih =>
    have hkeep : c.Worked { c with curve := c.cf.front [], cf := c.cf.free } :=
      ⟨rfl, .refl _, .refl _, c.cf.worked_free⟩
    exact hkeep.trans (ih _)

theorem worked_pollFeeds (cfg : Config) (f : Word) (n : Nat) (c : Channel) : c.Worked (pollFeeds cfg f n c) := by
  induction n generalizing c with
  | zero => exact .refl c
  | succ n ih => exact ((worked_takeBlock c _).trans (worked_analyse cfg f c.feed)).trans (ih _)

theorem worked_pollCurves (F : NumFormat) (stride : Nat) (a : PollArgs) (n : Nat) (c : Channel) :
    c.Worked (pollCurves F stride a n c) := by
  induction n generalizing c with
  | zero => exact .refl c
  | succ n ih => exact (worked_genCurve F stride a.bt a.bw a.bh a.binWidthHz a.floorDb c).trans (ih _)

/-! ## Command by command -/

/-- What a command can make of channel `d`: nothing, or the operation of its rule on the channel it names. -/
def After (i : Instr) (d : Nat) (c c' : Channel) : Prop :=
  c' = c ∨
    match i with
    | .fprep ch k cap => d = ch.toNat ∧ ∃ F shape kind, fifoKind k = some kind ∧ c' = c.prepare F cap.toNat shape kind
    | .fpush ch k _ => d = ch.toNat ∧ ∃ x : Item, fifoKind k = some x.kind ∧ c' = c.push x
    | .fpull ch k => d = ch.toNat ∧ ∃ kind, fifoKind k = some kind ∧ c' = c.free kind
    | .chord ch _ => d = ch.toNat ∧ ∃ F o, c' = c.changeOrder F o
    | .rfeed ch => d = ch.toNat ∧ c' = c.feed
    | .spec ch f => d = ch.toNat ∧ ∃ cfg, c' = c.analyse cfg f
    | .cgen ch _ bt bw bh b f =>
      d = ch.toNat ∧ 0 < c.mf.readable ∧ ∃ F stride, c' = c.genCurve F stride bt bw bh b f
    | .cget ch => d = ch.toNat ∧ ∃ n, c' = drainCurves n c
    | .poll ch _ _ _ _ _ =>
      d = ch.toNat ∧ ∃ cfg f F stride a n m l, c' = drainCurves l (pollCurves F stride a m (pollFeeds cfg f n c))
    | .proc _ _ => ∃ z, c' = { c with z := z }
    | .favail _ _ | .fovf _ _ | .rdcrv _ | .ccoef _ | .apply | .rdcoef | .wrr _ _ | .rdr _ | .snap | .tclr | .tick _ => False

end Channel

namespace State

/-- A command that ends with an update of one channel. -/
theorem chan_finish_modChan (s : State) (ch : Nat) (f : Channel → Channel) (r : Response) (d : Nat) :
    ((s.modChan ch f).finish r).chan d = s.chan d ∨ (d = ch ∧ ((s.modChan ch f).finish r).chan d = f (s.chan d)) := by
  by_cases hd : d = ch
  · subst hd
    exact (chan_modChan_rel (fun c c' => c' = c ∨ c' = f c) (fun _ => .inl rfl) s d f (fun _ => .inr rfl) d).imp_right
      fun h => ⟨rfl, h⟩
  · exact .inl (chan_modChan_ne s ch d f hd)

theorem chan_congr {s t : State} (hcfg : t.cfg = s.cfg) (hchans : t.chans = s.chans) (d : Nat) : t.chan d = s.chan d := by
  rw [chan, chan, hcfg, hchans]

theorem chan_beginPush {s : State} {ch : Nat} (hn : ch < s.nch) (x : Item) (d : Nat) :
    (s.beginPush ch x).chan d = s.chan d ∨ (d = ch ∧ (s.beginPush ch x).chan d = (s.chan d).push x) := by
  by_cases hwhole : ((s.chan ch).fifo x.kind).full = true ∨ s.turn.split = false
  · rw [beginPush_whole s ch x hn hwhole]
    exact chan_finish_modChan s ch _ _ d
  · obtain ⟨hfull, hsplit⟩ := not_or.1 hwhole
    have hcut : s.beginPush ch x = s.setBusy (.pushCopy ch x) := by simp [beginPush, hfull, hsplit]
    rw [hcut]
    exact .inl rfl

theorem chan_beginPull (s : State) (ch : Nat) (k : FifoKind) (d : Nat) :
    (s.beginPull ch k).chan d = s.chan d ∨ (d = ch ∧ (s.beginPull ch k).chan d = (s.chan d).free k) := by
  unfold beginPull
  split_ifs
  · exact .inl rfl
  · exact .inl rfl
  · rw [pullFree, Channel.front_kind]
    exact chan_finish_modChan s ch _ _ d

theorem chan_beginFeed (s : State) (ch d : Nat) :
    (s.beginFeed ch).chan d = s.chan d ∨ (d = ch ∧ (s.beginFeed ch).chan d = (s.chan d).feed) := by
  unfold beginFeed
  split_ifs
  · exact .inl rfl
  · exact .inl rfl
  · refine (chan_finish_modChan s ch (fun c => c.takeBlock ((s.chan ch).sf.front [])) _ d).imp_right ?_
    rintro ⟨rfl, h⟩
    exact ⟨rfl, h⟩

/-- The phases of a `POLL` are one update of its channel (R250). -/
theorem pollRun_eq {s : State} {a : PollArgs} (hn : a.ch < s.nch) (n : Nat) :
    ∃ l r, s.pollRun a n = (s.modChan a.ch fun c => Channel.drainCurves l (.pollCurves s.cfg.num s.stride.toNat a
      (c.pollFeeds s.cfg a.floorDb n).mf.readable (c.pollFeeds s.cfg a.floorDb n))).finish r := by
  simp only [pollRun, pollFinish, modChan_modChan _ _ _ _ hn]
  exact ⟨_, _, rfl⟩

end State

/-- A command that passes its checks makes of each channel what its rule says. -/
theorem effect_after {i : Instr} {s t : State} (hc : causeOf i s = none) (h : effect i s = .next t) (d : Nat) :
    Channel.After i d (s.chan d) (t.chan d) := by
  obtain ⟨hsel, -, -, -, hop⟩ := (causeOf_eq_none i s).1 hc
  cases i with
  | fprep ch k cap =>
    obtain ⟨kind, hk, -, -⟩ := State.fifoSel_isSome hsel
    simp only [effect, hk] at h
    rcases of_ite_eq h with ⟨-, h⟩ | ⟨-, h⟩ <;> cases h
    exact (State.chan_finish_modChan s _ _ _ d).imp_right fun ⟨hd, h⟩ => ⟨hd, _, _, kind, hk, h⟩
  | fpush ch k item =>
    obtain ⟨kind, hk, hfifo, hn⟩ := State.fifoSel_isSome hsel
    simp only [operandsOk, hk, hfifo] at hop
    obtain ⟨x, hx⟩ := Option.isSome_iff_exists.1 hop
    obtain ⟨rfl, -⟩ := Channel.fits_of_itemOfPayload hx
    simp only [effect, hk, hx] at h
    cases h
    exact (State.chan_beginPush hn x d).imp_right fun ⟨hd, h⟩ => ⟨hd, x, hk, h⟩
  | fpull ch k =>
    obtain ⟨kind, hk, -, -⟩ := State.fifoSel_isSome hsel
    simp only [effect, hk] at h
    cases h
    exact (State.chan_beginPull s _ kind d).imp_right fun ⟨hd, h⟩ => ⟨hd, kind, hk, h⟩
  | chord ch ord =>
    simp only [operandsOk, ← orderOf_isSome] at hop
    obtain ⟨o, ho⟩ := Option.isSome_iff_exists.1 hop
    simp only [effect, ho] at h
    cases h
    exact (State.chan_finish_modChan s _ _ _ d).imp_right fun ⟨hd, h⟩ => ⟨hd, _, o, h⟩
  | rfeed ch =>
    cases h
    exact State.chan_beginFeed s _ d
  | spec ch f =>
    cases h
    exact (State.chan_finish_modChan s _ _ _ d).imp_right fun ⟨hd, h⟩ => ⟨hd, _, h⟩
  | cgen ch bx bt bw bh b f =>
    rcases of_ite_eq h with ⟨-, h⟩ | ⟨hsome, h⟩ <;> cases h
    · exact .inl rfl
    · refine (State.chan_finish_modChan s _ _ _ d).imp_right fun ⟨hd, h⟩ => ⟨hd, ?_, _, _, h⟩
      rw [hd]
      exact Nat.pos_of_ne_zero hsome
  | cget ch =>
    cases h
    exact (State.chan_finish_modChan s _ _ _ d).imp_right fun ⟨hd, h⟩ => ⟨hd, _, h⟩
  | poll ch fs bx bt bw bh =>
    rcases of_ite_eq h with ⟨-, h⟩ | ⟨-, h⟩ <;> cases h
    · exact .inl rfl
    · obtain ⟨l, r, hrun⟩ := State.pollRun_eq (a := ⟨ch.toNat, bx, bt, bw, bh, _, s.floorDb⟩) (State.channelSel_isSome.1 hsel)
        (s.chan ch.toNat).sf.readable
      rw [hrun]
      exact (State.chan_finish_modChan s _ _ _ d).imp_right fun ⟨hd, h⟩ => ⟨hd, _, _, _, _, _, _, _, l, h⟩
  | proc n xs =>
    rcases of_ite_eq h with ⟨-, h⟩ | ⟨-, h⟩ <;> cases h
    · exact .inl (State.chan_congr s.takeCoeffs_cfg s.takeCoeffs_chans d)
    · obtain ⟨z, hz⟩ := State.chan_processChannels (s := s.takeCoeffs) (Numeric.arith s.takeCoeffs.cfg.num) s.takeCoeffs.act
        n.toNat xs d
      refine .inr ⟨z, hz.trans ?_⟩
      rw [State.chan_congr s.takeCoeffs_cfg s.takeCoeffs_chans d]
  | wrr r v =>
    cases hr : regOf s.nch r with
    | none => simp [selectorsOk, hr] at hsel
    | some reg =>
      simp only [effect, hr] at h
      cases h
      obtain ⟨hcfg, hchans, -⟩ := State.writeReg_frame s reg v
      exact .inl (State.chan_congr hcfg hchans d)
  | favail | fovf | rdcrv | rdcoef | rdr =>
    obtain ⟨r, rfl⟩ := effect_query (by simp) hc h
    exact .inl rfl
  | ccoef fs | apply | snap | tclr =>
    cases h
    exact .inl (State.chan_congr (by simp) (by simp) d)
  | tick fs =>
    rcases of_ite_eq h with ⟨-, h⟩ | ⟨-, h⟩
    · cases h
      exact .inl rfl
    · rcases of_ite_eq h with ⟨-, h⟩ | ⟨-, h⟩ <;> cases h
      · exact .inl rfl
      · exact .inl (State.chan_congr (by simp [State.tickPost]) (by simp [State.tickPost]) d)

theorem exec_after {i : Instr} {s t : State} (h : exec i s = .next t) (d : Nat) :
    Channel.After i d (s.chan d) (t.chan d) := by
  rcases exec_next i s t h with ⟨c, -, rfl⟩ | ⟨hc, he⟩
  · exact .inl (State.chan_raise s c i.word d)
  · exact effect_after hc he d

end Sys2Proof.Machine

/-! # Cursors along every step (R121, R124, R130, R158, R300) -/

namespace Sys2Proof.Machine

/-- The two commands that put the cursors and the counter of a FIFO to 0, by the channel and the kind they name. -/
def Instr.Restarts (i : Instr) (d : Nat) (k : FifoKind) : Prop :=
  (∃ c kk cap, i = .fprep c kk cap ∧ c.toNat = d ∧ fifoKind kk = some k) ∨ ∃ c ord, i = .chord c ord ∧ c.toNat = d ∧ k = .mf

namespace Channel

variable {i : Instr} {d : Nat} {c c' : Channel}

/-- All commands but the two that prepare FIFOs and `PROC` do whole pushes and pulls. -/
theorem After.worked (h : After i d c c') (hprep : ∀ ch k cap, i ≠ .fprep ch k cap) (hord : ∀ ch ord, i ≠ .chord ch ord)
    (hproc : ∀ n xs, i ≠ .proc n xs) : c.Worked c' := by
  rcases h with rfl | h
  · exact .refl c'
  cases i with
  | fprep ch k cap => exact absurd rfl (hprep ch k cap)
  | chord ch ord => exact absurd rfl (hord ch ord)
  | proc n xs => exact absurd rfl (hproc n xs)
  | fpush ch k item => obtain ⟨-, x, -, rfl⟩ := h; exact worked_push c x
  | fpull ch k => obtain ⟨-, kind, -, rfl⟩ := h; exact worked_free c kind
  | rfeed ch => obtain ⟨-, rfl⟩ := h; exact worked_takeBlock c _
  | spec ch f => obtain ⟨-, cfg, rfl⟩ := h; exact worked_analyse cfg f c
  | cgen ch bx bt bw bh b f => obtain ⟨-, -, F, stride, rfl⟩ := h; exact worked_genCurve F stride bt bw bh b f c
  | cget ch => obtain ⟨-, n, rfl⟩ := h; exact worked_drainCurves n c
  | poll ch fs bx bt bw bh =>
    obtain ⟨-, cfg, f, F, stride, a, n, m, l, rfl⟩ := h
    exact ((worked_pollFeeds cfg f n c).trans (worked_pollCurves F stride a m _)).trans (worked_drainCurves l _)
  | _ => exact h.elim

/-- Only `PROC` writes stage states. -/
theorem After.z_eq (h : After i d c c') (hproc : ∀ n xs, i ≠ .proc n xs) : c'.z = c.z := by
  cases i with
  | fprep ch k cap =>
    rcases h with rfl | ⟨-, F, shape, kind, -, rfl⟩
    · rfl
    · cases kind <;> rfl
  | chord ch ord => rcases h with rfl | ⟨-, F, o, rfl⟩ <;> rfl
  | _ => exact (h.worked nofun nofun hproc).z_eq

theorem prepare_fifo_of_ne (F : NumFormat) (c : Channel) (cap shape : Nat) {k k' : FifoKind} (h : k' ≠ k) :
    (c.prepare F cap shape k).fifo k' = c.fifo k' := by
  cases k with
  | sf => cases k' with
    | sf => exact absurd rfl h
    | mf | cf => rfl
  | mf => cases k' with
    | mf => exact absurd rfl h
    | sf | cf => rfl
  | cf => cases k' with
    | cf => exact absurd rfl h
    | sf | mf => rfl

/-- A command moves the cursors of a FIFO on, or restarts it. -/
theorem After.cursors (h : After i d c c') (k : FifoKind) : (c.fifo k).CursorsLe (c'.fifo k) ∨
    ((c'.fifo k).wr = 0 ∧ (c'.fifo k).rd = 0 ∧ (c'.fifo k).ovf = 0 ∧ Instr.Restarts i d k) := by
  cases i with
  | fprep ch kk cap =>
    rcases h with rfl | ⟨hd, F, shape, kind, hk, rfl⟩
    · exact .inl (.refl _)
    · by_cases he : k = kind
      · subst he
        have hrestart : Instr.Restarts (.fprep ch kk cap) d k := .inl ⟨ch, kk, cap, rfl, hd.symm, hk⟩
        cases k <;> exact .inr ⟨rfl, rfl, rfl, hrestart⟩
      · rw [prepare_fifo_of_ne F c _ shape he]
        exact .inl (.refl _)
  | chord ch ord =>
    rcases h with rfl | ⟨hd, F, o, rfl⟩
    · exact .inl (.refl _)
    · cases k with
      | sf | cf => exact .inl (.refl _)
      | mf =>
        cases hp : c.mf.prepared with
        | true =>
          have hnew : (c.changeOrder F o).mf = .prepare c.mf.cap (o.size / 2) (.replicate (o.size / 2) (resetZero F)) :=
            if_pos hp
          refine .inr ?_
          change (c.changeOrder F o).mf.wr = 0 ∧ (c.changeOrder F o).mf.rd = 0 ∧ (c.changeOrder F o).mf.ovf = 0 ∧ _
          rw [hnew]
          exact ⟨rfl, rfl, rfl, .inr ⟨ch, ord, rfl, hd.symm, rfl⟩⟩
        | false =>
          have hold : (c.changeOrder F o).mf = c.mf := if_neg (ne_true_of_eq_false hp)
          refine .inl ?_
          change c.mf.CursorsLe (c.changeOrder F o).mf
          rw [hold]
          exact .refl _
  | proc n xs =>
    rcases h with rfl | ⟨z, rfl⟩
    · exact .inl (.refl _)
    · cases k <;> exact .inl (.refl _)
  | _ => exact .inl ((h.worked nofun nofun nofun).cursorsLe k)

theorem copyIn_cursorsLe (c : Channel) (x : Item) : c.CursorsLe (c.copyIn x) := fun k => by
  rw [copyIn_fifo]
  exact .refl _

theorem publish_cursorsLe (c : Channel) (k : FifoKind) : c.CursorsLe (c.publish k) := by
  intro k'
  cases k with
  | sf => cases k' with
    | sf => exact c.sf.publish_cursorsLe
    | mf | cf => exact .refl _
  | mf => cases k' with
    | mf => exact c.mf.publish_cursorsLe
    | sf | cf => exact .refl _
  | cf => cases k' with
    | cf => exact c.cf.publish_cursorsLe
    | sf | mf => exact .refl _

/-- A counter that is not saturated is what it is (R10, R130). -/
theorem FifosOk.ovf_lt {cmax : Nat} (h : c.FifosOk cmax) (k : FifoKind) : (c.fifo k).ovf < 2 ^ 28 := by
  have hlt : ∀ {α : Type} {q : Fifo α}, q.Ok cmax → q.ovf < 2 ^ 28 := by
    intro α q hq
    cases hp : q.prepared with
    | true =>
      obtain ⟨-, -, -, -, -, hovf⟩ := (Fifo.ok_prepared hp).1 hq
      exact hovf
    | false =>
      simp only [Fifo.Ok, hp, Bool.false_eq_true, if_false] at hq
      omega
  obtain ⟨hsf, hmf, hcf⟩ := h
  cases k with
  | sf => exact hlt (q := c.sf) hsf
  | mf => exact hlt (q := c.mf) hmf
  | cf => exact hlt (q := c.cf) hcf

end Channel

/-- While its counter is in range, a FIFO whose cursors do not go back keeps its counter from going back. -/
theorem Fifo.CursorsLe.monotone {α : Type} {q q' : Fifo α} (h : q.CursorsLe q') (hovf : q.ovf < 2 ^ 28) :
    q.wr ≤ q'.wr ∧ q.rd ≤ q'.rd ∧ q.ovf ≤ q'.ovf := by
  obtain ⟨hwr, hrd, hle⟩ := h
  have hmin : min q.ovf (2 ^ 28 - 1) ≤ min q'.ovf (2 ^ 28 - 1) := hle
  exact ⟨hwr, hrd, by omega⟩

/-- A micro-step of a command in progress moves no cursor back, in any channel. -/
theorem State.cursorsLe_microStep (s : State) (m : Micro) (d : Nat) :
    (s.chan d).CursorsLe ((s.microStep m).chan d) := by
  have hupdate : ∀ (ch : Nat) (f : Channel → Channel), (∀ c, Channel.CursorsLe c (f c)) →
      (s.chan d).CursorsLe ((s.modChan ch f).chan d) := fun ch f hf =>
    State.chan_modChan_rel Channel.CursorsLe .refl s ch f (fun _ => hf _) d
  cases m with
  | pushCopy ch x => exact hupdate ch _ fun c => c.copyIn_cursorsLe x
  | pushPublish ch k => exact hupdate ch _ fun c => c.publish_cursorsLe k
  | pullFree ch x => exact hupdate ch _ fun c => (c.worked_free x.kind).cursorsLe
  | feedFree ch blk => exact hupdate ch _ fun c => (c.worked_takeBlock blk).cursorsLe
  | procRun n xs =>
    obtain ⟨z, hz⟩ := State.chan_processChannels (s := s) (Numeric.arith s.cfg.num) s.act n xs d
    have hchan : (s.microStep (.procRun n xs)).chan d = { s.chan d with z := z } := hz
    rw [hchan]
    intro k
    cases k <;> exact .refl _
  | pullCopy | feedCopy | tickPost => exact .refl _
  | tickLatch fs =>
    have hchan : (s.microStep (.tickLatch fs)).chan d = s.chan d :=
      State.chan_congr s.latchSettings_cfg s.latchSettings_chans d
    rw [hchan]
    exact .refl _
  | tickDesign fs =>
    have hchan : (s.microStep (.tickDesign fs)).chan d = s.chan d :=
      State.chan_congr (s.tickDesign_cfg fs) (s.tickDesign_chans fs) d
    rw [hchan]
    exact .refl _
  | pollFeed a n =>
    cases n with
    | zero => exact .refl _
    | succ n => exact hupdate a.ch _ fun c => (c.worked_takeBlock _).cursorsLe
  | pollSpec a n => exact hupdate a.ch _ fun c => (c.worked_analyse s.cfg a.floorDb).cursorsLe
  | pollCurve a n =>
    cases n with
    | zero => exact hupdate a.ch _ fun c => (c.worked_drainCurves _).cursorsLe
    | succ n => exact hupdate a.ch _ fun c => (Channel.worked_genCurve _ _ _ _ _ _ _ c).cursorsLe

/-- What a turn does to the cursors of one FIFO: it moves them on, or runs a command of agent B that restarts it. -/
theorem TurnTo.cursors {s t : State} {p : Port} {sp : Bool} {es : List Event} (ht : TurnTo s p (s.withTurn p sp es) t)
    (d : Nat) (k : FifoKind) : ((s.chan d).fifo k).CursorsLe ((t.chan d).fifo k) ∨
      (((t.chan d).fifo k).wr = 0 ∧ ((t.chan d).fifo k).rd = 0 ∧ ((t.chan d).fifo k).ovf = 0 ∧ p = .B ∧
        (s.port p).busy = none ∧ ∃ i rest, decode s.nch (s.port p).stream = .ok (i, rest) ∧ Instr.Restarts i d k) := by
  cases ht with
  | micro m hb => exact .inl (State.cursorsLe_microStep (s.withTurn p sp es) m d k)
  | stutter hb => exact .inl (.refl _)
  | refuse hb ws c w =>
    rw [State.chan_raise]
    exact .inl (.refl _)
  | run hb i rest t hd hc he =>
    refine (effect_after hc he d).cursors k |>.imp_right ?_
    rintro ⟨hwr, hrd, hovf, hrestart⟩
    have hp : p = .B := by
      have hlegal := legalOn_of_causeOf hc
      rcases hrestart with ⟨c, kk, cap, rfl, -⟩ | ⟨c, ord, rfl, -⟩ <;> exact eq_of_beq hlegal
    exact ⟨hwr, hrd, hovf, hp, hb, i, rest, hd, hrestart⟩

theorem State.hardReset_chan (s : State) (d : Nat) : s.hardReset.chan d = Channel.afterReset s.cfg.num := by
  change (List.replicate s.nch (Channel.afterReset s.cfg.num)).getD d (Channel.afterReset s.cfg.num) = _
  rw [List.getD_eq_getElem?_getD, List.getElem?_replicate]
  split <;> rfl

/-- Settles O23: a reset puts the cursors to 0, words that arrive leave them, and a turn moves them on or runs one of the two
commands that restart a FIFO. -/
theorem cursorsMonotone : Obligations.CursorsMonotone := by
  intro s t hs h ch hch k q q'
  obtain ⟨hfifos, -⟩ := hs
  have hovf := (hfifos _ (s.chan_mem ch hch)).ovf_lt k
  rcases step_cases s t h with ⟨es, hsched, rfl⟩ | ⟨p, ws, es, hsched, rfl⟩ | ⟨p, sp, es, hsched, ht⟩
  · have hreset := State.hardReset_chan { s with sched := es } ch
    refine .inr ?_
    simp only [q', hreset]
    cases k <;> exact ⟨rfl, rfl, rfl, .inl ⟨es, hsched⟩⟩
  · exact .inl ⟨le_rfl, le_rfl, le_rfl⟩
  · refine (TurnTo.cursors ht ch k).imp (·.monotone hovf) ?_
    rintro ⟨hwr, hrd, hovf', rfl, hb, i, rest, hd, hrestart⟩
    exact ⟨hwr, hrd, hovf', .inr ⟨sp, es, i, rest, hsched, hb, hd, hrestart⟩⟩

end Sys2Proof.Machine

/-! # What the commands on one channel leave unchanged (R124 to R126, R142, R158, R160, R186, R187, R250, R272) -/

namespace Sys2Proof.Machine

namespace Channel

variable {d : Nat} {ch : BitVec 4} {c c' : Channel}

/-! ## Command by command -/

theorem After.fprep_sf {cap : BitVec 18} (h : After (.fprep ch 0 cap) d c c') : c' = { c with sf := c'.sf } := by
  rcases h with rfl | ⟨-, F, shape, kind, hk, rfl⟩
  · rfl
  · cases hk
    rfl

theorem After.fprep_mf {cap : BitVec 18} (h : After (.fprep ch 1 cap) d c c') : c' = { c with mf := c'.mf } := by
  rcases h with rfl | ⟨-, F, shape, kind, hk, rfl⟩
  · rfl
  · cases hk
    rfl

theorem After.fprep_cf {cap : BitVec 18} (h : After (.fprep ch 2 cap) d c c') : c' = { c with cf := c'.cf } := by
  rcases h with rfl | ⟨-, F, shape, kind, hk, rfl⟩
  · rfl
  · cases hk
    rfl

theorem After.fpull_sf (h : After (.fpull ch 0) d c c') : c' = { c with sf := { c.sf with rd := c'.sf.rd } } := by
  rcases h with rfl | ⟨-, kind, hk, rfl⟩
  · rfl
  · cases hk
    rfl

theorem After.fpull_mf (h : After (.fpull ch 1) d c c') : c' = { c with mf := { c.mf with rd := c'.mf.rd } } := by
  rcases h with rfl | ⟨-, kind, hk, rfl⟩
  · rfl
  · cases hk
    rfl

theorem After.fpull_cf (h : After (.fpull ch 2) d c c') : c' = { c with cf := { c.cf with rd := c'.cf.rd } } := by
  rcases h with rfl | ⟨-, kind, hk, rfl⟩
  · rfl
  · cases hk
    rfl

theorem After.fpush_sf {xs : List Word} (h : After (.fpush ch 0 xs) d c c') :
    c' = { c with sf := { c.sf with slots := c'.sf.slots, wr := c'.sf.wr, ovf := c'.sf.ovf } } ∧
      c.sf.PushFrame c'.sf := by
  rcases h with rfl | ⟨-, x, hk, rfl⟩
  · exact ⟨rfl, .refl _⟩
  · cases x with
    | samples xs =>
      rw [push_samples]
      exact ⟨congrArg (fun q => { c with sf := q }) (c.sf.push_frame xs), c.sf.pushFrame_push xs⟩
    | spectrum | curve => cases hk

theorem After.fpush_mf {xs : List Word} (h : After (.fpush ch 1 xs) d c c') :
    c' = { c with mf := { c.mf with slots := c'.mf.slots, wr := c'.mf.wr, ovf := c'.mf.ovf } } ∧
      c.mf.PushFrame c'.mf := by
  rcases h with rfl | ⟨-, x, hk, rfl⟩
  · exact ⟨rfl, .refl _⟩
  · cases x with
    | spectrum db =>
      rw [push_spectrum]
      exact ⟨congrArg (fun q => { c with mf := q }) (c.mf.push_frame db), c.mf.pushFrame_push db⟩
    | samples | curve => cases hk

theorem After.fpush_cf {xs : List Word} (h : After (.fpush ch 2 xs) d c c') :
    c' = { c with cf := { c.cf with slots := c'.cf.slots, wr := c'.cf.wr, ovf := c'.cf.ovf } } ∧
      c.cf.PushFrame c'.cf := by
  rcases h with rfl | ⟨-, x, hk, rfl⟩
  · exact ⟨rfl, .refl _⟩
  · cases x with
    | curve ps =>
      rw [push_curve]
      exact ⟨congrArg (fun q => { c with cf := q }) (c.cf.push_frame ps), c.cf.pushFrame_push ps⟩
    | samples | spectrum => cases hk

theorem After.rfeed (h : After (.rfeed ch) d c c') :
    c' = { c with win := c'.win, sf := { c.sf with rd := c'.sf.rd } } := by
  rcases h with rfl | ⟨-, rfl⟩ <;> rfl

theorem After.chord {o : BitVec 18} (h : After (.chord ch o) d c c') :
    c' = { c with ord := c'.ord, win := c'.win, mf := c'.mf } ∧ (c.mf.prepared = false → c'.mf = c.mf) := by
  rcases h with rfl | ⟨-, F, o, rfl⟩
  · exact ⟨rfl, fun _ => rfl⟩
  · exact ⟨rfl, fun hp => if_neg (ne_true_of_eq_false hp)⟩

theorem After.spec {f : Word} (h : After (.spec ch f) d c c') :
    c' = { c with mf := { c.mf with slots := c'.mf.slots, wr := c'.mf.wr, ovf := c'.mf.ovf } } ∧
      c.mf.PushFrame c'.mf := by
  rcases h with rfl | ⟨-, cfg, rfl⟩
  · exact ⟨rfl, .refl _⟩
  · rw [analyse_eq]
    exact ⟨congrArg (fun q => { c with mf := q }) (c.mf.push_frame _), c.mf.pushFrame_push _⟩

theorem After.cgen {bx bt bw bh b f : Word} (h : After (.cgen ch bx bt bw bh b f) d c c') :
    c' = { c with
      mf := { c.mf with rd := c'.mf.rd }
      cf := { c.cf with slots := c'.cf.slots, wr := c'.cf.wr, ovf := c'.cf.ovf } } ∧
    (∀ j, j ≠ c.cf.wr % c.cf.cap → c'.cf.slots[j]? = c.cf.slots[j]?) ∧
    (c.cf.cap ≤ c.cf.wr - c.cf.rd ∨ c.mf.wr ≤ c.mf.rd → c'.cf.slots = c.cf.slots) := by
  rcases h with rfl | ⟨-, hsome, F, stride, rfl⟩
  · exact ⟨rfl, fun _ _ => rfl, fun _ => rfl⟩
  · rw [genCurve_eq]
    obtain ⟨hslot, hfull⟩ := c.cf.pushFrame_push (c.headCurve F stride bt bw bh b f)
    have hmf : ¬ c.mf.wr ≤ c.mf.rd := Nat.not_le.2 (Nat.lt_of_sub_pos hsome)
    exact ⟨congrArg (fun q => { c with mf := c.mf.free, cf := q }) (c.cf.push_frame _), hslot,
      fun h => hfull (h.resolve_right hmf)⟩

theorem After.cget (h : After (.cget ch) d c c') :
    c' = { c with curve := c'.curve, cf := { c.cf with rd := c'.cf.rd } } := by
  rcases h with rfl | ⟨-, n, rfl⟩
  · rfl
  · have hcf : (drainCurves n c).cf = { c.cf with rd := (drainCurves n c).cf.rd } := by rw [drainCurves_cf]
    exact (drainCurves_rest n c).trans (congrArg (fun q => { c with cf := q, curve := (drainCurves n c).curve }) hcf)

theorem After.producerSide_poll {fs bx bt bw bh : Word} (h : After (.poll ch fs bx bt bw bh) d c c') :
    c'.producerSide = c.producerSide := by
  rcases h with rfl | ⟨-, cfg, f, F, stride, a, n, m, l, rfl⟩
  · rfl
  · rw [producerSide_drainCurves, producerSide_pollCurves, producerSide_pollFeeds]

theorem After.poll {fs bx bt bw bh : Word} (h : After (.poll ch fs bx bt bw bh) d c c') :
    c' = { c with
      sf := { c.sf with rd := c'.sf.rd }
      win := c'.win
      mf := { c.mf with slots := c'.mf.slots, wr := c'.mf.wr, rd := c'.mf.rd, ovf := c'.mf.ovf }
      cf := { c.cf with slots := c'.cf.slots, wr := c'.cf.wr, rd := c'.cf.rd, ovf := c'.cf.ovf }
      curve := c'.curve } ∧
    (∀ j, (∀ n, c.mf.wr ≤ n → n < c'.mf.wr → j ≠ n % c.mf.cap) → c'.mf.slots[j]? = c.mf.slots[j]?) ∧
    ∀ j, (∀ n, c.cf.wr ≤ n → n < c'.cf.wr → j ≠ n % c.cf.cap) → c'.cf.slots[j]? = c.cf.slots[j]? := by
  obtain ⟨heq, -, ⟨hmf, -, hmslots⟩, ⟨hcf, -, hcslots⟩⟩ := h.worked nofun nofun nofun
  have hsf : c'.sf = { c.sf with rd := c'.sf.rd } :=
    congrArg (fun q => { q with rd := c'.sf.rd }) (After.producerSide_poll h)
  exact ⟨heq.trans (by congr 1), hmslots, hcslots⟩

end Channel

/-! ## The state around the channel -/

/-- Two states that agree in everything but the channels and the ports. -/
theorem State.eq_of_globals {s t : State} (h : t.globals = s.globals) : t = { s with ports := t.ports, chans := t.chans } :=
  congrArg (fun g => { g with ports := t.ports, chans := t.chans }) h

/-- A command that touches channel `ch` alone, and of the state outside the channels and the ports nothing. -/
theorem exec_channelFrame {i : Instr} {ch : Nat} {s t : State} (h : exec i s = .next t) (hglobals : s.afterCommand i = s)
    (hch : ∀ d c c', d ≠ ch → Channel.After i d c c' → c' = c) (hproc : ∀ n xs, i ≠ .proc n xs) :
    t = { s with err := t.err, ports := t.ports, chans := t.chans } ∧ t.nch = s.nch ∧
      (∀ d, d ≠ ch → t.chan d = s.chan d) ∧ (t.chan ch).z = (s.chan ch).z ∧ (causeOf i s ≠ none → t.chans = s.chans) := by
  have hothers : ∀ d, d ≠ ch → t.chan d = s.chan d := fun d hd => hch d _ _ hd (exec_after h d)
  have hz : (t.chan ch).z = (s.chan ch).z := (exec_after h ch).z_eq hproc
  rcases exec_next i s t h with ⟨cause, -, rfl⟩ | ⟨hc, he⟩
  · have hchans := State.raise_chans s cause i.word
    exact ⟨by rw [hchans]; exact State.raise_eq s cause i.word, congrArg List.length hchans, hothers, hz, fun _ => hchans⟩
  · obtain ⟨⟨-, hnch, -⟩, -⟩ := State.turned_effect (fit := True) (quiet := fun _ => True) (fun _ _ => trivial) hc he
    have heq := State.eq_of_globals ((globals_effect he).trans (congrArg State.globals hglobals))
    exact ⟨by rw [heq], hnch, hothers, hz, absurd hc⟩

/-- Settles O57: the state around the channel first, then the channel itself, command by command. -/
theorem channelFrame : Obligations.ChannelFrame := by
  refine ⟨?_, fun ch s t => ?_⟩
  · rintro i ch s t (⟨k, cap, rfl⟩ | ⟨k, xs, rfl⟩ | ⟨k, rfl⟩ | ⟨ord, rfl⟩ | rfl | ⟨f, rfl⟩ | ⟨bx, bt, bw, bh, b, f, rfl⟩ | rfl |
      ⟨fs, bx, bt, bw, bh, rfl⟩) h <;>
    exact exec_channelFrame h rfl (fun d c c' hd hafter => hafter.resolve_right fun hop => hd hop.1) nofun
  · exact ⟨fun _ h => (exec_after h _).fprep_sf, fun _ h => (exec_after h _).fprep_mf, fun _ h => (exec_after h _).fprep_cf,
      fun _ h => (exec_after h _).fpush_sf, fun _ h => (exec_after h _).fpush_mf, fun _ h => (exec_after h _).fpush_cf,
      fun h => (exec_after h _).fpull_sf, fun h => (exec_after h _).fpull_mf, fun h => (exec_after h _).fpull_cf,
      fun h => (exec_after h _).rfeed, fun _ h => (exec_after h _).chord, fun _ h => (exec_after h _).spec,
      fun _ _ _ _ _ _ h => (exec_after h _).cgen, fun h => (exec_after h _).cget,
      fun _ _ _ _ _ h => (exec_after h _).poll⟩

end Sys2Proof.Machine

/-! # The block reassembler (R141 to R143) -/

namespace Sys2Proof.Machine

/-! ## The shift-in (R141) -/

section

variable {win blk : List Word}

theorem shiftIn_length (h : blk.length ≤ win.length) : (shiftIn win blk).length = win.length := by
  rw [shiftIn, List.length_append, List.length_drop, Nat.sub_add_cancel h]

/-- The samples that stay, moved left by the block's length. -/
theorem getElem?_shiftIn_kept {i : Nat} (hi : i < win.length - blk.length) :
    (shiftIn win blk)[i]? = win[i + blk.length]? := by
  rw [shiftIn, List.getElem?_append_left (by rwa [List.length_drop]), List.getElem?_drop, Nat.add_comm]

/-- The samples of the block, behind the ones that stay. -/
theorem getElem?_shiftIn_new {i : Nat} (hi : win.length - blk.length ≤ i) :
    (shiftIn win blk)[i]? = blk[i - (win.length - blk.length)]? := by
  rw [shiftIn, List.getElem?_append_right (by rwa [List.length_drop]), List.length_drop]

end

/-- Settles O28: the window is its old tail, then the block. -/
theorem shiftInLaw : Obligations.ShiftInLaw :=
  fun _ _ h => ⟨shiftIn_length h, fun _ hi => getElem?_shiftIn_kept hi, fun _ hi _ => getElem?_shiftIn_new hi⟩

/-- Blocks shifted in one by one leave what one shift by all their samples leaves (R141, R143). -/
theorem foldl_shiftIn {blks : List (List Word)} {win : List Word} (h : ∀ b ∈ blks, b.length ≤ win.length) :
    blks.foldl shiftIn win = (win ++ blks.flatten).drop blks.flatten.length := by
  induction blks generalizing win with
  | nil => simp
  | cons b bs ih =>
    obtain ⟨hb, hbs⟩ := List.forall_mem_cons.1 h
    rw [List.foldl_cons, ih fun x hx => (hbs x hx).trans_eq (shiftIn_length hb).symm]
    rw [List.flatten_cons, List.length_append, ← List.drop_drop, List.drop_append_of_le_length hb, shiftIn,
      List.append_assoc]

/-! ## Feeds (R142) -/

theorem exec_of_causeOf_none {i : Instr} {s : State} (h : causeOf i s = none) : exec i s = effect i s := by
  rw [exec_eq, h]
  rfl

/-- What the checks of an `RFEED` ask for (R142, R273). -/
theorem causeOf_rfeed {s : State} {ch : BitVec 4} :
    causeOf (.rfeed ch) s = none ↔ s.cur = .B ∧ ch.toNat < s.nch ∧ (s.chan ch.toNat).sf.prepared = true ∧
      (s.chan ch.toNat).ord.isSome = true ∧ (s.chan ch.toNat).sf.shape ≤ (s.chan ch.toNat).size := by
  simp only [causeOf_eq_none, selectorsOk, State.channelSel_isSome, legalOn, beq_iff_eq, preparedOk, Bool.and_eq_true,
    writtenOk, operandsOk, decide_eq_true_iff]
  tauto

theorem causeOf_rfeed_of_ord {s : State} {ch : BitVec 4} {o : Order} (hcur : s.cur = .B) (hn : ch.toNat < s.nch)
    (hp : (s.chan ch.toNat).sf.prepared = true) (ho : (s.chan ch.toNat).ord = some o)
    (hf : (s.chan ch.toNat).sf.shape ≤ o.size) : causeOf (.rfeed ch) s = none := by
  have hsize : (s.chan ch.toNat).size = o.size := by rw [Channel.size, ho]
  exact causeOf_rfeed.2 ⟨hcur, hn, hp, by rw [ho]; rfl, hf.trans_eq hsize.symm⟩

section

variable {s : State} {ch : BitVec 4} (h : causeOf (.rfeed ch) s = none)

include h

theorem exec_rfeed_some (hr : 0 < (s.chan ch.toNat).sf.readable) (hsplit : s.turn.split = false) :
    exec (.rfeed ch) s = .next (s.feedFree ch.toNat ((s.chan ch.toNat).sf.front [])) := by
  rw [exec_of_causeOf_none h, effect, State.beginFeed, if_neg hr.ne', if_neg (by simp [hsplit])]

theorem exec_rfeed_empty (hr : (s.chan ch.toNat).sf.readable = 0) :
    exec (.rfeed ch) s = .next (s.finish (respond .empty 0)) := by
  rw [exec_of_causeOf_none h, effect, State.beginFeed, if_pos hr]

theorem chan_feedFree (blk : List Word) :
    (s.feedFree ch.toNat blk).chan ch.toNat = (s.chan ch.toNat).takeBlock blk :=
  State.chan_modChan_same s ch.toNat (fun c => c.takeBlock blk) (causeOf_rfeed.1 h).2.1

/-- After a feed the checks of the next one pass. -/
theorem causeOf_rfeed_feedFree (blk : List Word) : causeOf (.rfeed ch) (s.feedFree ch.toNat blk) = none := by
  have hchan := chan_feedFree h blk
  have hnch : (s.feedFree ch.toNat blk).nch = s.nch := State.modChan_nch s ch.toNat fun c => c.takeBlock blk
  obtain ⟨hcur, hn, hp, ho, hf⟩ := causeOf_rfeed.1 h
  exact causeOf_rfeed.2 ⟨hcur, hn.trans_eq hnch.symm, by rwa [hchan], by rwa [hchan], by rwa [hchan]⟩

end

/-- Settles O27: the block is the one at the head of the FIFO. -/
theorem rfeedResult : Obligations.RfeedResult := by
  intro s ch o c hcur hn hp ho hf
  have hready : causeOf (.rfeed ch) s = none := causeOf_rfeed_of_ord hcur hn hp ho hf
  refine ⟨fun blk hr hsplit hslot => ?_, fun hr => exec_rfeed_empty hready (Nat.sub_eq_zero_of_le hr)⟩
  rw [exec_rfeed_some hready (Nat.sub_pos_of_lt hr) hsplit, Fifo.front_of_slot hslot]
  rfl

/-! ## Runs of feeds (R143) -/

theorem runCommands_cons {i : Instr} {s t : State} (h : exec i s = .next t) (is : List Instr) :
    runCommands (i :: is) s = runCommands is t := by
  rw [runCommands, h]

/-- As many feeds as there are blocks queued, or fewer: they shift in the first blocks queued, oldest first. -/
theorem runCommands_rfeeds {ch : BitVec 4} (m : Nat) {s : State} (h : causeOf (.rfeed ch) s = none)
    (hsplit : s.turn.split = false) (hm : m ≤ (s.chan ch.toNat).sf.readable) :
    ∃ t, runCommands (List.replicate m (.rfeed ch)) s = some t ∧
      (t.chan ch.toNat).win = (((s.chan ch.toNat).sf.queued []).take m).foldl shiftIn (s.chan ch.toNat).win := by
  induction m generalizing s with
  | zero => exact ⟨s, rfl, rfl⟩
  | succ m ih =>
    let c := s.chan ch.toNat
    have hr : 0 < c.sf.readable := Nat.zero_lt_of_lt hm
    have hchan : (s.feedFree ch.toNat (c.sf.front [])).chan ch.toNat = c.feed := chan_feedFree h _
    have hrest : m ≤ c.feed.sf.readable := by
      rw [Channel.feed_readable]
      exact Nat.le_sub_one_of_lt hm
    obtain ⟨t, hrun, hwin⟩ := ih (causeOf_rfeed_feedFree h (c.sf.front [])) hsplit (by rwa [hchan])
    refine ⟨t, ?_, ?_⟩
    · rw [List.replicate_succ, runCommands_cons (exec_rfeed_some h hr hsplit), hrun]
    · rw [hwin, hchan, Fifo.queued_free [] c.sf hr]
      rfl

/-! ## An order change before the feeds (R158) -/

section

variable {s : State} {ch : BitVec 4} {o : Order} (hcur : s.cur = .B) (hn : ch.toNat < s.nch)

include hcur hn

theorem exec_chord {ord : BitVec 18} (ho : Sys2Proof.Machine.orderOf ord = some o) :
    exec (.chord ch ord) s =
      .next ((s.modChan ch.toNat fun c => c.changeOrder s.cfg.num o).finish (respond .ok 0)) := by
  have hord : (Sys2Proof.Machine.orderOf ord).isSome = true := by rw [ho]; rfl
  have hchecks : causeOf (.chord ch ord) s = none :=
    (causeOf_eq_none _ _).2
      ⟨State.channelSel_isSome.2 hn, beq_iff_eq.2 hcur, rfl, rfl, (orderOf_isSome ord).symm.trans hord⟩
  rw [exec_of_causeOf_none hchecks, effect, ho]

/-- After an order change the checks of a feed pass on a channel whose sample blocks fit the new window. -/
theorem causeOf_rfeed_changeOrder (hp : (s.chan ch.toNat).sf.prepared = true)
    (hf : (s.chan ch.toNat).sf.shape ≤ o.size) (F : NumFormat) (r : Response) :
    causeOf (.rfeed ch) ((s.modChan ch.toNat fun c => c.changeOrder F o).finish r) = none := by
  have hchan := State.chan_modChan_same s ch.toNat (fun c => c.changeOrder F o) hn
  have hnch : (s.modChan ch.toNat fun c => c.changeOrder F o).nch = s.nch := State.modChan_nch ..
  refine causeOf_rfeed_of_ord (o := o) hcur (hn.trans_eq hnch.symm) ?_ ?_ ?_ <;> rw [State.chan_finish, hchan]
  · exact hp
  · rfl
  · exact hf

end

theorem flatten_length_of_uniform {α : Type} {xss : List (List α)} {n : Nat} (h : ∀ xs ∈ xss, xs.length = n) :
    xss.flatten.length = xss.length * n := by
  rw [List.length_flatten, List.map_congr_left h, List.map_const', List.sum_replicate, smul_eq_mul]

/-- Settles O29: shifting in `m` blocks one by one is one shift by their `m * S` samples, which leaves the zeros and the
samples that still fit. -/
theorem windowAfterFeeds : Obligations.WindowAfterFeeds := by
  intro s ch ord o m S c n hcur hsplit hn ho hp _ hshape hS hlen hm
  have hchan := State.chan_modChan_same s ch.toNat (fun c => c.changeOrder s.cfg.num o) hn
  have hready := causeOf_rfeed_changeOrder hcur hn hp (hshape.trans_le hS) s.cfg.num (respond .ok 0)
  obtain ⟨t, hrun, hwin⟩ := runCommands_rfeeds m hready hsplit (by rwa [State.chan_finish, hchan])
  refine ⟨t, by rw [runCommands_cons (exec_chord hcur hn ho), hrun], ?_⟩
  let blks := (c.sf.queued []).take m
  have hblk : ∀ b ∈ blks, b.length = S := fun b hb => hlen b (List.mem_of_mem_take hb)
  have hcount : blks.length = m := by rw [List.length_take, Fifo.queued_length, Nat.min_eq_left hm]
  have htotal : blks.flatten.length = m * S := by rw [flatten_length_of_uniform hblk, hcount]
  have hzeros : o.size - m * S = o.size - n := by omega
  have hcut : m * S - o.size = m * S - n := by omega
  calc (t.chan ch.toNat).win
      = blks.foldl shiftIn (List.replicate o.size (resetZero s.cfg.num)) := by
        rw [hwin, State.chan_finish, hchan]
        rfl
    _ = (List.replicate o.size (resetZero s.cfg.num) ++ blks.flatten).drop (m * S) := by
        rw [foldl_shiftIn fun b hb => by rwa [hblk b hb, List.length_replicate], htotal]
    _ = List.replicate (o.size - n) (Numeric.ofRat s.cfg.num 0) ++ blks.flatten.drop (m * S - n) := by
        rw [List.drop_append, List.drop_replicate, List.length_replicate, resetZero_eq, hzeros, hcut]

end Sys2Proof.Machine

/-! # Results that are not finite (R11, R12) -/

namespace Sys2Proof

namespace Extended

variable {K : Type} [Field K]

/-- The value is 0, an infinity or `NaN`. -/
def ZeroOrNotFinite (a : Extended K) : Prop := a = .fin 0 ∨ a.isFinite = false

section

variable {a b : Extended K}

theorem add_not_finite_left (h : a.isFinite = false) : (add a b).isFinite = false := by
  cases a with
  | fin x => cases h
  | posInf | negInf | nan => cases b <;> rfl

theorem add_not_finite_right (h : b.isFinite = false) : (add a b).isFinite = false := by
  cases b with
  | fin x => cases h
  | posInf | negInf | nan => cases a <;> rfl

theorem sub_not_finite_left (h : a.isFinite = false) : (sub a b).isFinite = false := add_not_finite_left h

variable [LinearOrder K]

theorem infOfSign_not_finite (x : K) : (infOfSign x).isFinite = false := by
  unfold infOfSign
  split_ifs <;> rfl

theorem mul_not_finite_left (h : a.isFinite = false) : (mul a b).isFinite = false := by
  cases a with
  | fin x => cases h
  | nan => rfl
  | posInf | negInf => cases b with
    | fin y => exact infOfSign_not_finite _
    | posInf | negInf | nan => rfl

theorem div_not_finite_left (h : a.isFinite = false) : (div a b).isFinite = false := by
  cases a with
  | fin x => cases h
  | nan => rfl
  | posInf | negInf => cases b with
    | fin y => simp only [div]; split_ifs <;> rfl
    | posInf | negInf | nan => rfl

theorem div_zero_not_finite (a : Extended K) : (div a (.fin 0)).isFinite = false := by
  cases a with
  | fin x => exact (congrArg isFinite (if_pos rfl)).trans (infOfSign_not_finite x)
  | posInf | negInf | nan => exact div_not_finite_left rfl

theorem zero_mul_zeroOrNotFinite (b : Extended K) : (mul (.fin 0) b).ZeroOrNotFinite := by
  cases b with
  | fin y => exact .inl (congrArg fin (zero_mul y))
  | nan => exact .inr rfl
  | posInf | negInf => exact .inr (infOfSign_not_finite _)

theorem ZeroOrNotFinite.div (h : a.ZeroOrNotFinite) (b : Extended K) : (div a b).ZeroOrNotFinite := by
  rcases h with rfl | h
  · cases b with
    | fin y =>
      by_cases hy : y = 0
      · rw [hy]
        exact .inr (div_zero_not_finite _)
      · exact .inl ((if_neg hy).trans (congrArg fin (zero_div y)))
    | posInf | negInf => exact .inl rfl
    | nan => exact .inr rfl
  · exact .inr (div_not_finite_left h)

end

end Extended

/-! ## In binary32 (R61) -/

/-- `rnd` keeps the infinities and `NaN`. -/
theorem Binary32.value_rnd_not_finite {e : Ext} (h : e.isFinite = false) : (value (rnd e)).isFinite = false := by
  cases e with
  | fin x => cases h
  | posInf | negInf | nan => decide

theorem Binary32.zeroOrNotFinite_value_rnd {e : Ext} (h : e.ZeroOrNotFinite) : (value (rnd e)).ZeroOrNotFinite :=
  h.imp (fun h => by rw [h, value_rnd_zero]) value_rnd_not_finite

namespace Numeric

variable {a b : Word}

theorem not_finite_of_isNan (h : isNan .binary32 a = true) : finite .binary32 a = false := by
  rw [finite, of_decide_eq_true h]
  rfl

theorem add_not_finite_right (h : finite .binary32 b = false) : finite .binary32 (add .binary32 a b) = false :=
  Binary32.value_rnd_not_finite (Extended.add_not_finite_right h)

theorem sub_not_finite_left (h : finite .binary32 a = false) : finite .binary32 (sub .binary32 a b) = false :=
  Binary32.value_rnd_not_finite (Extended.sub_not_finite_left h)

theorem mul_not_finite_left (h : finite .binary32 a = false) : finite .binary32 (mul .binary32 a b) = false :=
  Binary32.value_rnd_not_finite (Extended.mul_not_finite_left h)

theorem div_not_finite_left (h : finite .binary32 a = false) : finite .binary32 (div .binary32 a b) = false :=
  Binary32.value_rnd_not_finite (Extended.div_not_finite_left h)

theorem div_zero_not_finite (h : value .binary32 b = .fin 0) : finite .binary32 (div .binary32 a b) = false := by
  refine Binary32.value_rnd_not_finite ?_
  rw [h]
  exact Extended.div_zero_not_finite _

theorem value_ofRat_zero : value .binary32 (ofRat .binary32 0) = .fin 0 := Binary32.value_rnd_zero

theorem value_zero_sub (h : value .binary32 b = .fin 0) :
    value .binary32 (sub .binary32 (ofRat .binary32 0) b) = .fin 0 := by
  have hexact : Extended.sub (.fin 0) (.fin 0) = (.fin 0 : Ext) := congrArg Extended.fin (add_neg_cancel (0 : ℚ))
  rw [sub, value_ofRat_zero, h, hexact]
  exact value_ofRat_zero

/-- The logarithm of 0 is minus infinity, and that of an infinity or `NaN` is an infinity or `NaN` (R11). -/
theorem log10_not_finite (h : (value .binary32 a).ZeroOrNotFinite) : finite .binary32 (log10 .binary32 a) = false := by
  change (NumFormat.binary32.format.value a).ZeroOrNotFinite at h
  unfold log10 NumberFormat.log10
  cases ha : NumFormat.binary32.format.value a with
  | fin x =>
    rcases h with h | h
    · cases ha.symm.trans h
      exact Binary32.value_rnd_not_finite (e := .negInf) rfl
    · rw [ha] at h
      cases h
  | posInf => exact Binary32.value_rnd_not_finite (e := .posInf) rfl
  | negInf | nan => exact Binary32.value_rnd_not_finite (e := .nan) rfl

end Numeric

end Sys2Proof

/-! # The polyline of a spectrum (R181 to R184, R189) -/

namespace Sys2Proof.Machine

section

variable {α : Type} {A : Arith α} {db : List α} {half stride : Nat} {bt bw bh binw floorDb : α}

/-! ## One bin (R183, R184) -/

theorem pointOf_eq (k : Nat) (d : α) :
    pointOf A k d bt bw bh binw floorDb =
      if A.finite (pointX A k bw binw) = true ∧ A.finite (pointY A d bt bh floorDb) = true then
        some { x := pointX A k bw binw, y := pointY A d bt bh floorDb } else none := by
  simp only [pointOf, Bool.and_eq_true]

theorem pointOf_eq_some {k : Nat} {d : α} {p : Point α} (h : pointOf A k d bt bw bh binw floorDb = some p) :
    A.finite p.x = true ∧ A.finite p.y = true ∧ p.y = pointY A d bt bh floorDb := by
  rw [pointOf_eq] at h
  split_ifs at h with hfin
  cases h
  exact ⟨hfin.1, hfin.2, rfl⟩

theorem pointOf_none_of_x {k : Nat} {d : α} (h : A.finite (pointX A k bw binw) = false) :
    pointOf A k d bt bw bh binw floorDb = none := by
  rw [pointOf_eq, h]
  exact if_neg fun hfin => nomatch hfin.1

theorem pointOf_none_of_y {k : Nat} {d : α} (h : A.finite (pointY A d bt bh floorDb) = false) :
    pointOf A k d bt bw bh binw floorDb = none := by
  rw [pointOf_eq, h]
  exact if_neg fun hfin => nomatch hfin.2

/-! ## The bins visited (R184) -/

theorem visits_of_none_left (hs : 1 ≤ stride) : (0 + stride - 1) / stride = 0 := Nat.div_eq_of_lt (by omega)

/-- The visit of one bin leaves those of the bins from `stride` on. -/
theorem visits_step {n : Nat} (hn : 0 < n) (hs : 1 ≤ stride) :
    (n + stride - 1) / stride = (n - stride + stride - 1) / stride + 1 := by
  rcases Nat.le_total stride n with hle | hle
  · have hmore : n + stride - 1 = n - stride + stride - 1 + stride := by omega
    rw [hmore, Nat.add_div_right _ hs]
  · have hlast : n + stride - 1 = n - 1 + stride := by omega
    rw [Nat.sub_eq_zero_of_le hle, visits_of_none_left hs, hlast, Nat.add_div_right _ hs, Nat.div_eq_of_lt (by omega)]

/-- With fuel for the bins that are left, the loop visits every `stride`-th of them. -/
theorem genPathFrom_eq_filterMap (hs : 1 ≤ stride) {fuel k : Nat} (hfuel : half - k ≤ fuel) :
    genPathFrom A db half stride bt bw bh binw floorDb fuel k =
      (List.range ((half - k + stride - 1) / stride)).filterMap fun j =>
        pointOf A (k + j * stride) (db.getD (k + j * stride) (A.ofRat 0)) bt bw bh binw floorDb := by
  induction fuel generalizing k with
  | zero =>
    rw [Nat.le_zero.1 hfuel, visits_of_none_left hs]
    rfl
  | succ fuel ih =>
    have hnext : ∀ j, k + stride + j * stride = k + (j + 1) * stride := fun j => by ring
    unfold genPathFrom
    split_ifs with hk
    · rw [ih (by omega), visits_step (Nat.sub_pos_of_lt hk) hs, Nat.sub_sub, List.range_succ_eq_map,
        List.filterMap_cons, List.filterMap_map, Nat.zero_mul, Nat.add_zero]
      simp only [hnext, Function.comp_def]
      cases pointOf A k (db.getD k (A.ofRat 0)) bt bw bh binw floorDb <;> rfl
    · rw [Nat.sub_eq_zero_of_le (Nat.not_lt.1 hk), visits_of_none_left hs]
      rfl

/-- Every point is that of a bin below `half`, whatever the stride. -/
theorem mem_genPathFrom {fuel k : Nat} {p : Point α}
    (h : p ∈ genPathFrom A db half stride bt bw bh binw floorDb fuel k) :
    ∃ i < half, pointOf A i (db.getD i (A.ofRat 0)) bt bw bh binw floorDb = some p := by
  induction fuel generalizing k with
  | zero => cases h
  | succ fuel ih =>
    unfold genPathFrom at h
    split_ifs at h with hk
    · rcases List.mem_append.1 h with h | h
      · exact ⟨k, hk, Option.mem_toList.1 h⟩
      · exact ih h
    · cases h

theorem genPath_eq_filterMap (hs : 1 ≤ stride) (N : Nat) :
    genPath A db N bt bw bh binw floorDb stride =
      (List.range ((N / 2 + stride - 1) / stride)).filterMap fun j =>
        pointOf A (j * stride) (db.getD (j * stride) (A.ofRat 0)) bt bw bh binw floorDb := by
  rw [genPath, genPathFrom_eq_filterMap hs (Nat.sub_le _ _)]
  simp only [Nat.sub_zero, Nat.zero_add]

theorem genPath_length_le (hs : 1 ≤ stride) (N : Nat) :
    (genPath A db N bt bw bh binw floorDb stride).length ≤ (N / 2 + stride - 1) / stride := by
  rw [genPath_eq_filterMap hs]
  exact (List.length_filterMap_le _ _).trans_eq List.length_range

end

/-! ## Over the reals (R181, R183) -/

open Reference

theorem mapFromLog10_reference (v : ℝ) : mapFromLog10 arith v 20 20000 = Real.log (v / 20) / Real.log 1000 := by
  have hrange : (20000 : ℝ) / 20 = 1000 := by norm_num
  rw [← hrange]
  exact div_div_div_cancel_right₀ (Real.log_pos (by norm_num)).ne' _ _

/-- Equal ratios are equal steps on the axis (R181). -/
theorem mapFromLog10_reference_mul {v r : ℝ} (hv : 0 < v) (hr : 0 < r) :
    mapFromLog10 arith (v * r) 20 20000 = mapFromLog10 arith v 20 20000 + mapFromLog10 arith (20 * r) 20 20000 := by
  have hsplit : v * r / 20 = v / 20 * r := by ring
  have hratio : 20 * r / 20 = r := by ring
  rw [mapFromLog10_reference, mapFromLog10_reference, mapFromLog10_reference, hsplit, hratio,
    Real.log_mul (by positivity) hr.ne', add_div]

theorem pointX_reference (k : Nat) (bw binw : ℝ) :
    pointX arith k bw binw = Real.log (k * binw / 20) / Real.log 1000 * bw := by
  have h : pointX arith k bw binw = mapFromLog10 arith (((k : ℚ) : ℝ) * binw) ((20 : ℚ) : ℝ) ((20000 : ℚ) : ℝ) * bw :=
    rfl
  rw [h, Rat.cast_natCast, Rat.cast_ofNat, Rat.cast_ofNat, mapFromLog10_reference]

/-- The distance from the floor, in units of the floor's depth, up from the bottom (R183). -/
theorem pointY_reference (d bt bh floorDb : ℝ) :
    pointY arith d bt bh floorDb = bt + bh + (d - floorDb) / floorDb * bh := by
  have h : pointY arith d bt bh floorDb = bt + bh + (d - floorDb) / (((0 : ℚ) : ℝ) - floorDb) * (bt - (bt + bh)) :=
    rfl
  rw [h, Rat.cast_zero, zero_sub, sub_add_cancel_left, div_neg, neg_mul_neg]

/-- Settles O38: the loop as a filtered list of the visited bins, then the formulas over the reals. -/
theorem polylinePoints : Obligations.PolylinePoints := by
  refine ⟨fun α A db N stride bt bw bh binw floorDb hs => ⟨?_, genPath_length_le hs N, fun p hp => ?_⟩, ?_, ?_,
    fun v r hv hr => mapFromLog10_reference_mul hv hr, fun k bw binw _ _ => pointX_reference k bw binw,
    fun bt bh floorDb hf => ⟨?_, ?_, fun d e => ?_⟩⟩
  · simp only [genPath_eq_filterMap hs, pointOf_eq]
  · obtain ⟨k, -, hpoint⟩ := mem_genPathFrom hp
    obtain ⟨hx, hy, -⟩ := pointOf_eq_some hpoint
    exact ⟨hx, hy⟩
  · rw [mapFromLog10_reference, div_self (by norm_num), Real.log_one, zero_div]
  · have hrange : (20000 : ℝ) / 20 = 1000 := by norm_num
    rw [mapFromLog10_reference, hrange, div_self (Real.log_pos (by norm_num)).ne']
  · rw [pointY_reference, sub_self, zero_div, zero_mul, add_zero]
  · rw [pointY_reference, zero_sub, neg_div, div_self hf, neg_one_mul, add_neg_cancel_right]
  · rw [pointY_reference, pointY_reference]
    ring

/-! ## Skipped bins, in binary32 (R184, R189) -/

section

variable {k : Nat} {d bt bw bh binw floorDb : Word}

/-- The axis starts above 0 Hz: the logarithm of bin 0's frequency is not finite. -/
theorem pointX_zero_not_finite : Numeric.finite .binary32 (pointX (Numeric.arith .binary32) 0 bw binw) = false := by
  have hfreq : (Numeric.value .binary32 (Numeric.mul .binary32 (Numeric.ofRat .binary32 0) binw)).ZeroOrNotFinite := by
    refine Binary32.zeroOrNotFinite_value_rnd ?_
    rw [Numeric.value_ofRat_zero]
    exact Extended.zero_mul_zeroOrNotFinite _
  exact Numeric.mul_not_finite_left (Numeric.div_not_finite_left
    (Numeric.log10_not_finite (Binary32.zeroOrNotFinite_value_rnd (hfreq.div _))))

/-- Where the place of `d` between the floor and 0 dB is not finite, y is not. -/
theorem pointY_not_finite_of_quotient (h : Numeric.finite .binary32 (Numeric.div .binary32
    (Numeric.sub .binary32 d floorDb) (Numeric.sub .binary32 (Numeric.ofRat .binary32 0) floorDb)) = false) :
    Numeric.finite .binary32 (pointY (Numeric.arith .binary32) d bt bh floorDb) = false :=
  Numeric.add_not_finite_right (Numeric.mul_not_finite_left h)

theorem pointY_not_finite_of_isNan (h : Numeric.isNan .binary32 d = true) :
    Numeric.finite .binary32 (pointY (Numeric.arith .binary32) d bt bh floorDb) = false :=
  pointY_not_finite_of_quotient
    (Numeric.div_not_finite_left (Numeric.sub_not_finite_left (Numeric.not_finite_of_isNan h)))

theorem pointY_not_finite_of_floor_zero (h : Numeric.value .binary32 floorDb = .fin 0) :
    Numeric.finite .binary32 (pointY (Numeric.arith .binary32) d bt bh floorDb) = false :=
  pointY_not_finite_of_quotient (Numeric.div_zero_not_finite (Numeric.value_zero_sub h))

end

/-- Every bin of a flat spectrum has the same y. -/
theorem genPath_flat_y {α : Type} {A : Arith α} {d : α} {db : List α} {N stride : Nat} {bt bw bh binw floorDb : α}
    (hlen : N / 2 ≤ db.length) (hflat : ∀ x ∈ db, x = d) {p : Point α}
    (hp : p ∈ genPath A db N bt bw bh binw floorDb stride) : p.y = pointY A d bt bh floorDb := by
  obtain ⟨k, hk, hpoint⟩ := mem_genPathFrom hp
  have hbin : db.getD k (A.ofRat 0) = d := by
    rw [List.getD_eq_getElem _ _ (hk.trans_le hlen)]
    exact hflat _ (List.getElem_mem _)
  obtain ⟨-, -, hy⟩ := pointOf_eq_some hpoint
  rw [hy, hbin]

/-- Settles O39: a coordinate of a skipped point is not finite. -/
theorem skippedPoints : Obligations.SkippedPoints := by
  refine ⟨fun α A d db N stride bt bw bh binw floorDb _ hlen hflat p hp q hq => ?_,
    fun k d bt bw bh binw floorDb hnan => pointOf_none_of_y (pointY_not_finite_of_isNan hnan),
    fun d bt bw bh binw floorDb => pointOf_none_of_x pointX_zero_not_finite,
    fun db N stride bt bw bh binw floorDb hzero => List.eq_nil_iff_forall_not_mem.2 fun p hp => ?_⟩
  · rw [genPath_flat_y hlen hflat hp, genPath_flat_y hlen hflat hq]
  · obtain ⟨k, -, hpoint⟩ := mem_genPathFrom hp
    cases (pointOf_none_of_y (pointY_not_finite_of_floor_zero hzero)).symm.trans hpoint

end Sys2Proof.Machine

/-! # The curve generator's commands (R186 to R188) -/

namespace Sys2Proof.Machine

/-! ## `CGEN` (R186) -/

namespace Channel

theorem headCurve_of_slot {c : Channel} {o : Order} {db : List Word} (ho : c.ord = some o)
    (hslot : c.mf.slots[c.mf.rd % c.mf.cap]? = some db) (F : NumFormat) (stride : Nat) (bt bw bh b f : Word) :
    c.headCurve F stride bt bw bh b f = genPath (Numeric.arith F) db o.size bt bw bh b f stride := by
  rw [headCurve, Fifo.front_of_slot hslot, size, ho]

theorem pushStatus_cf_of_full {c : Channel} (h : c.cf.full = true) : pushStatus c .cf = .dropped := if_pos h

theorem pushStatus_cf_of_room {c : Channel} (h : c.cf.full = false) : pushStatus c .cf = .ok :=
  if_neg (ne_true_of_eq_false h)

end Channel

section

variable {s : State} {ch : BitVec 4} {bx bt bw bh binw floorDb : Word}

/-- What the checks of a `CGEN` ask for (R186, R273). -/
theorem causeOf_cgen : causeOf (.cgen ch bx bt bw bh binw floorDb) s = none ↔
    s.cur = .B ∧ ch.toNat < s.nch ∧ (s.chan ch.toNat).ord.isSome = true ∧ (s.chan ch.toNat).mf.prepared = true ∧
      (s.chan ch.toNat).cf.prepared = true ∧ Numeric.finite s.cfg.num floorDb = true := by
  simp only [causeOf_eq_none, selectorsOk, State.channelSel_isSome, legalOn, beq_iff_eq, preparedOk, Bool.and_eq_true,
    writtenOk, operandsOk]
  tauto

variable (h : causeOf (.cgen ch bx bt bw bh binw floorDb) s = none)

include h

theorem exec_cgen_some (hr : (s.chan ch.toNat).mf.rd < (s.chan ch.toNat).mf.wr) :
    exec (.cgen ch bx bt bw bh binw floorDb) s = .next
      ((s.modChan ch.toNat fun c => c.genCurve s.cfg.num s.stride.toNat bt bw bh binw floorDb).finish
        (respond (pushStatus (s.chan ch.toNat) .cf)
          ((s.chan ch.toNat).headCurve s.cfg.num s.stride.toNat bt bw bh binw floorDb).length)) := by
  have hsome : (s.chan ch.toNat).mf.readable ≠ 0 := (Nat.sub_pos_of_lt hr).ne'
  rw [exec_of_causeOf_none h, effect, if_neg hsome]

theorem exec_cgen_empty (hr : (s.chan ch.toNat).mf.wr ≤ (s.chan ch.toNat).mf.rd) :
    exec (.cgen ch bx bt bw bh binw floorDb) s = .next (s.finish (respond .empty 0)) := by
  have hnone : (s.chan ch.toNat).mf.readable = 0 := Nat.sub_eq_zero_of_le hr
  rw [exec_of_causeOf_none h, effect, if_pos hnone]

end

/-- Settles O36: the spectrum is the one at the head of `MF`, and its polyline a push into `CF`. -/
theorem cgenResult : Obligations.CgenResult := by
  intro s ch bx bt bw bh binw floorDb o c hcur hn ho hm hc hf
  have hready : causeOf (.cgen ch bx bt bw bh binw floorDb) s = none :=
    causeOf_cgen.2 ⟨hcur, hn, Option.isSome_of_eq_some ho, hm, hc, hf⟩
  refine ⟨fun db hr hslot => ?_, exec_cgen_empty hready⟩
  intro pts
  have hpts : c.headCurve s.cfg.num s.stride.toNat bt bw bh binw floorDb = pts := Channel.headCurve_of_slot ho hslot ..
  have hgen : c.genCurve s.cfg.num s.stride.toNat bt bw bh binw floorDb =
      { c with mf := c.mf.free, cf := c.cf.push pts } := by
    rw [Channel.genCurve_eq, hpts]
  refine ⟨fun hroom => ?_, fun hfull => ?_⟩ <;> rw [exec_cgen_some hready hr, State.modChan, hgen, hpts]
  · have hnotfull : c.cf.full = false := c.cf.full_eq_false.2 hroom
    rw [Channel.pushStatus_cf_of_room hnotfull, Fifo.push_of_room hnotfull]
    rfl
  · have hisfull : c.cf.full = true := c.cf.full_eq_true.2 hfull
    rw [Channel.pushStatus_cf_of_full hisfull, Fifo.push_of_full hisfull]
    rfl

/-! ## `CGET` and `RDCRV` (R187, R188) -/

namespace Channel

/-- Of the polylines pulled, the last one is kept (R187). -/
theorem drainCurves_succ_curve (n : Nat) (c : Channel) :
    (drainCurves (n + 1) c).curve = c.cf.slots.getD ((c.cf.rd + n) % c.cf.cap) [] := by
  induction n generalizing c with
  | zero => rfl
  | succ n ih =>
    rw [drainCurves, ih]
    exact congrArg (fun i => c.cf.slots.getD (i % c.cf.cap) []) (Nat.add_right_comm c.cf.rd 1 n)

theorem drainCurves_all_curve (c : Channel) :
    (drainCurves c.cf.readable c).curve =
      if c.cf.rd < c.cf.wr then c.cf.slots.getD ((c.cf.wr - 1) % c.cf.cap) [] else c.curve := by
  split_ifs with h
  · obtain ⟨n, hn⟩ := Nat.exists_eq_add_of_lt h
    have hcount : c.cf.readable = n + 1 := by
      rw [Fifo.readable, hn]
      omega
    rw [hcount, drainCurves_succ_curve, hn, Nat.add_sub_cancel]
  · rw [Fifo.readable, Nat.sub_eq_zero_of_le (Nat.not_lt.1 h)]
    rfl

theorem drainCurves_all {c : Channel} (h : c.cf.rd ≤ c.cf.wr) :
    drainCurves c.cf.readable c = { c with
      cf := { c.cf with rd := c.cf.wr }
      curve := if c.cf.rd < c.cf.wr then c.cf.slots.getD ((c.cf.wr - 1) % c.cf.cap) [] else c.curve } := by
  have hrd : c.cf.rd + c.cf.readable = c.cf.wr := Nat.add_sub_cancel' h
  rw [drainCurves_rest, drainCurves_cf, drainCurves_all_curve, hrd]

end Channel

/-- Settles O37: `CGET` pulls every polyline queued, `RDCRV` reads the kept one. -/
theorem cgetRdcrvResult : Obligations.CgetRdcrvResult := by
  intro s ch c hcur hn
  have hsel := State.channelSel_isSome.2 hn
  refine ⟨fun hp hr => ?_, ?_⟩
  · have hready : causeOf (.cget ch) s = none := (causeOf_eq_none ..).2 ⟨hsel, beq_iff_eq.2 hcur, hp, rfl, rfl⟩
    rw [exec_of_causeOf_none hready, effect, State.modChan, Channel.drainCurves_all hr]
    rfl
  · have hready : causeOf (.rdcrv ch) s = none := (causeOf_eq_none ..).2 ⟨hsel, beq_iff_eq.2 hcur, rfl, rfl, rfl⟩
    rw [exec_of_causeOf_none hready, effect, wordsOfPoints_eq_flatMap]
    rfl

end Sys2Proof.Machine

/-! # The units of the filter chain (R201 to R208, R214 to R218)

The design and the cascade in every table of primitives, then the formulas of a stage over the reals. -/

namespace Sys2Proof.Machine

/-! ## The stages of a designed cut group (R207, R208) -/

section

variable {α : Type} (A : Arith α)

/-- Stage `i` of a group of slope order `M` with the sections `sec`. -/
def cutStage (M : Nat) (sec : Nat → Biquad α) (i : Nat) : Stage α :=
  if i < M then { co := sec i, byp := false } else identityStage A

theorem lowCutStage_eq (M : Nat) (f fs : α) :
    lowCutStage A M f fs = cutStage A M fun i => lowCutBiquad A f (sectionQuality A M i) fs := rfl

theorem highCutStage_eq (M : Nat) (f fs : α) :
    highCutStage A M f fs = cutStage A M fun i => highCutBiquad A f (sectionQuality A M i) fs := rfl

variable {M i : Nat} (sec : Nat → Biquad α)

theorem cutStage_of_lt (h : i < M) : cutStage A M sec i = { co := sec i, byp := false } := if_pos h

theorem cutStage_of_le (h : M ≤ i) : cutStage A M sec i = identityStage A := if_neg (Nat.not_lt.2 h)

theorem cutStage_byp (M i : Nat) : (cutStage A M sec i).byp = decide (M ≤ i) := by
  rcases Nat.lt_or_ge i M with h | h
  · rw [cutStage_of_lt A sec h, decide_eq_false (Nat.not_le.2 h)]
  · rw [cutStage_of_le A sec h, decide_eq_true h, identityStage]

/-- A stage of the group: active and its section below the slope order, bypassed and the identity from there on. -/
theorem cutStage_spec {st : Stage α} (h : ((List.range 4).map (cutStage A M sec))[i]? = some st) :
    (st.byp = true ↔ M ≤ i) ∧ (st.byp = false → st.co = sec i) ∧
      (st.byp = true → st.co = Biquad.identity (A.ofRat 1) (A.ofRat 0)) := by
  obtain rfl : cutStage A M sec i = st := by
    rw [List.getElem?_map, Option.map_eq_some_iff] at h
    obtain ⟨j, hj, h⟩ := h
    rwa [(List.getElem?_eq_some_iff.1 hj).2.symm.trans (List.getElem_range _)] at h
  rw [cutStage_byp, decide_eq_true_iff, decide_eq_false_iff_not]
  refine ⟨Iff.rfl, fun hlt => ?_, fun hle => ?_⟩
  · rw [cutStage_of_lt A sec (Nat.not_le.1 hlt)]
  · rw [cutStage_of_le A sec hle, identityStage]

/-- As many stages are active as the slope order says (R42). -/
theorem cutStage_active (h : M ≤ 4) :
    (((List.range 4).map (cutStage A M sec)).filter fun st => !st.byp).length = M := by
  have hactive : ((fun st : Stage α => !st.byp) ∘ cutStage A M sec) = fun i => decide (i < M) := by
    funext i
    simp only [Function.comp_apply, cutStage_byp, ← decide_not, Nat.not_le]
  rw [List.filter_map, List.length_map, hactive]
  interval_cases M <;> rfl

end

/-- Settles O41: each cut group is four stages of `cutStage`. -/
theorem designStages : Obligations.DesignStages := by
  intro α A c fs d lc hc
  have hlc : lc = (List.range 4).map (cutStage A c.lowCutSlopeOrder.toNat fun i =>
      lowCutBiquad A c.lowCutFreqHz (sectionQuality A c.lowCutSlopeOrder.toNat i) fs) := rfl
  have hhc : hc = (List.range 4).map (cutStage A c.highCutSlopeOrder.toNat fun i =>
      highCutBiquad A c.highCutFreqHz (sectionQuality A c.highCutSlopeOrder.toNat i) fs) := rfl
  rw [hlc, hhc]
  exact ⟨rfl, rfl, rfl, rfl, rfl, fun _ _ h => cutStage_spec A _ h, fun _ _ h => cutStage_spec A _ h,
    fun _ h => cutStage_active A _ h, fun _ h => cutStage_active A _ h⟩

/-! ## The cascade (R214, R216 to R218) -/

section

variable {α : Type} (A : Arith α)

theorem runStage_bypassed {gbyp : Bool} {st : Stage α} (h : gbyp = true ∨ st.byp = true) (z : StageState α) (v : α) :
    runStage A gbyp st z v = (v, z) := by
  rcases h with h | h <;> simp [runStage, h]

theorem runStage_active {gbyp : Bool} {st : Stage α} (hg : gbyp = false) (hs : st.byp = false) (z : StageState α)
    (v : α) : runStage A gbyp st z v = ((biquad A st.co z.s1 z.s2 v).1,
      { s1 := (biquad A st.co z.s1 z.s2 v).2.1, s2 := (biquad A st.co z.s1 z.s2 v).2.2 }) := by
  simp [runStage, hg, hs]

/-- A bypassed stage keeps its state, whatever comes in. -/
theorem runStage_snd_bypassed {gbyp : Bool} {st : Stage α} (h : gbyp = true ∨ st.byp = true) (z : StageState α) (v : α) :
    (runStage A gbyp st z v).2 = z := by
  rw [runStage_bypassed A h]

/-- With every group bypassed a sample comes out as it went in. -/
theorem cascade_bypassed {c : CoeffSet α} (hlc : c.gbypLC = true) (hpk : c.gbypPK = true) (hhc : c.gbypHC = true)
    (z : Nine (StageState α)) (v : α) : cascade A c z v = (v, z) := by
  simp only [cascade, runStage_bypassed A (.inl hlc), runStage_bypassed A (.inl hpk), runStage_bypassed A (.inl hhc)]

theorem processSamples_bypassed {c : CoeffSet α} (hlc : c.gbypLC = true) (hpk : c.gbypPK = true) (hhc : c.gbypHC = true)
    (z : Nine (StageState α)) (vs : List α) : processSamples A c z vs = (vs, z) := by
  induction vs with
  | nil => rfl
  | cons v vs ih => simp only [processSamples, cascade_bypassed A hlc hpk hhc, ih]

end

/-- Settles O44: the cascade stage by stage, and an induction over the samples. -/
theorem bypassIdentity : Obligations.BypassIdentity := by
  refine ⟨fun α A gbyp st z v => ⟨fun h => runStage_bypassed A h z v, fun hg hs => runStage_active A hg hs z v⟩,
    fun α A c z z' v v1 v2 v3 v4 v5 v6 v7 v8 v9 h0 h1 h2 h3 h4 h5 h6 h7 h8 => ?_, fun α A c z v => ?_,
    fun α A c z v h => ?_, fun α A c z vs hlc hpk hhc => processSamples_bypassed A hlc hpk hhc z vs⟩
  · simp only [cascade, h0, h1, h2, h3, h4, h5, h6, h7, h8]
  · have kept {gbyp : Bool} {st : Stage α} (h : gbyp = true ∨ st.byp = true) (z : StageState α) (v : α) :=
      runStage_snd_bypassed A h z v
    exact ⟨fun h => ⟨kept (.inl h) _ _, kept (.inl h) _ _, kept (.inl h) _ _, kept (.inl h) _ _⟩,
      fun h => kept (.inl h) _ _,
      fun h => ⟨kept (.inl h) _ _, kept (.inl h) _ _, kept (.inl h) _ _, kept (.inl h) _ _⟩, fun h => kept (.inr h) _ _,
      fun h => kept (.inr h) _ _, fun h => kept (.inr h) _ _, fun h => kept (.inr h) _ _, fun h => kept (.inr h) _ _,
      fun h => kept (.inr h) _ _, fun h => kept (.inr h) _ _, fun h => kept (.inr h) _ _, fun h => kept (.inr h) _ _⟩
  · simp only [cascade, runStage_bypassed A (.inl h)]

/-! ## One stage and its recurrence, over the reals (R201, R216) -/

/-- On finite values the step over the extended reals is the step over the reals. -/
theorem biquad_arithExt (c : Biquad ℝ) (s1 s2 x : ℝ) :
    biquad Reference.arithExt { b0 := .fin c.b0, b1 := .fin c.b1, b2 := .fin c.b2, a1 := .fin c.a1, a2 := .fin c.a2 }
        (.fin s1) (.fin s2) (.fin x) =
      (.fin (biquad Reference.arith c s1 s2 x).1, .fin (biquad Reference.arith c s1 s2 x).2.1,
        .fin (biquad Reference.arith c s1 s2 x).2.2) := by
  simp only [biquad, Reference.arithExt_add, Reference.arithExt_sub, Reference.arithExt_mul, Reference.arith]

/-- The state of a stage holds what its next two outputs owe to the two inputs `x1`, `x2` and the two outputs `y1`, `y2`
before them. -/
theorem outputs_eq_recurrence (c : Biquad ℝ) (x1 x2 y1 y2 : ℝ) (xs : List ℝ) :
    Reference.outputs c (c.b1 * x1 - c.a1 * y1 + (c.b2 * x2 - c.a2 * y2)) (c.b2 * x1 - c.a2 * y1) xs =
      Reference.recurrence c x1 x2 y1 y2 xs := by
  induction xs generalizing x1 x2 y1 y2 with
  | nil => rfl
  | cons x xs ih =>
    have hy : c.b0 * x + (c.b1 * x1 - c.a1 * y1 + (c.b2 * x2 - c.a2 * y2)) =
        c.b0 * x + c.b1 * x1 + c.b2 * x2 - c.a1 * y1 - c.a2 * y2 := by ring
    simp only [Reference.outputs, Reference.recurrence, biquad, Reference.arith, hy, ih]

/-- Settles O45: the zero state is the state after zeros. -/
theorem biquadRecurrence : Obligations.BiquadRecurrence := by
  refine ⟨fun _ _ _ _ _ => rfl, biquad_arithExt, fun c xs => ?_⟩
  simpa using outputs_eq_recurrence c 0 0 0 0 xs

end Sys2Proof.Machine

/-! # The peak stage over the reals (R203) -/

namespace Sys2Proof.Reference

open Sys2Proof.Machine

/-! ## The unit circle -/

/-- The point `e^(iw)` of the unit circle at which a stage is evaluated: its square is given by its real part. -/
theorem exp_mul_I_sq (w : ℝ) :
    Complex.exp (w * Complex.I) ^ 2 = 2 * Real.cos w * Complex.exp (w * Complex.I) - 1 := by
  have hone : (Real.cos w : ℂ) ^ 2 + (Real.sin w : ℂ) ^ 2 = 1 := by exact_mod_cast Real.cos_sq_add_sin_sq w
  rw [Complex.exp_mul_I, ← Complex.ofReal_cos, ← Complex.ofReal_sin]
  linear_combination -hone + (Real.sin w : ℂ) ^ 2 * Complex.I_sq

/-- The angle of a stage's frequency on the unit circle. -/
noncomputable def stageAngle (f fs : ℝ) : ℝ := 2 * Real.pi * f / fs

/-- A frequency below fs/2 has its angle in (0, pi). -/
theorem stageAngle_mem {f fs : ℝ} (hfs : 0 < fs) (hf : 0 < f) (hf2 : 2 * f < fs) :
    0 < stageAngle f fs ∧ stageAngle f fs < Real.pi := by
  have hpi := Real.pi_pos
  refine ⟨by unfold stageAngle; positivity, ?_⟩
  rw [stageAngle, div_lt_iff₀ hfs]
  calc 2 * Real.pi * f = Real.pi * (2 * f) := by ring
    _ < Real.pi * fs := mul_lt_mul_of_pos_left hf2 hpi

/-! ## Gain and stability -/

/-- The peak stage from its bandwidth terms: `u` in the numerator, `r` in the denominator, `cw` the cosine of the centre
angle. -/
noncomputable def peakSection (u r cw : ℝ) : Biquad ℝ :=
  { b0 := (1 + u) / (1 + r), b1 := -2 * cw / (1 + r), b2 := (1 - u) / (1 + r)
    a1 := -2 * cw / (1 + r), a2 := (1 - r) / (1 + r) }

section

variable {u r cw : ℝ} (hr : 0 < r)

include hr

/-- Gain 1 at 0 Hz: numerator and denominator agree at z = 1. -/
theorem peakSection_at_one :
    (peakSection u r cw).b0 + (peakSection u r cw).b1 + (peakSection u r cw).b2 =
      1 + (peakSection u r cw).a1 + (peakSection u r cw).a2 := by
  simp only [peakSection]
  field_simp
  ring

/-- Gain 1 at fs/2: they agree at z = -1. -/
theorem peakSection_at_neg_one :
    (peakSection u r cw).b0 - (peakSection u r cw).b1 + (peakSection u r cw).b2 =
      1 - (peakSection u r cw).a1 + (peakSection u r cw).a2 := by
  simp only [peakSection]
  field_simp
  ring

/-- At the centre only `z^2 - 1` is left of either polynomial, times `u` in the numerator and `r` in the denominator. -/
theorem peakSection_at_centre {z : ℂ} {k : ℝ} (hu : u = k * r) (hz : z ^ 2 = 2 * cw * z - 1) :
    ((peakSection u r cw).b0 : ℂ) * z ^ 2 + (peakSection u r cw).b1 * z + (peakSection u r cw).b2 =
      (k : ℂ) * (z ^ 2 + (peakSection u r cw).a1 * z + (peakSection u r cw).a2) := by
  have hd : (1 + r : ℂ) ≠ 0 := by exact_mod_cast (by positivity : 1 + r ≠ 0)
  simp only [peakSection, hu]
  push_cast
  field_simp
  linear_combination (1 - k : ℂ) * hz

/-- With one bandwidth term for both polynomials they are one polynomial. -/
theorem peakSection_identity : (peakSection r r cw).b0 = 1 ∧ (peakSection r r cw).b1 = (peakSection r r cw).a1 ∧
    (peakSection r r cw).b2 = (peakSection r r cw).a2 :=
  ⟨div_self (by positivity), rfl, rfl⟩

theorem peakSection_stable (hcw : |cw| < 1) :
    (peakSection u r cw).a2 < 1 ∧ |(peakSection u r cw).a1| < 1 + (peakSection u r cw).a2 := by
  have hd : 0 < 1 + r := by positivity
  have hsum : 1 + (1 - r) / (1 + r) = 2 / (1 + r) := by
    field_simp
    ring
  simp only [peakSection, hsum, abs_div, abs_mul, abs_neg, abs_two, abs_of_pos hd]
  refine ⟨(div_lt_one hd).2 (by linarith), ?_⟩
  gcongr
  linarith

end

/-! ## The formulas of R203 -/

/-- The amplitude of a gain in decibels, as R203 halves it. -/
noncomputable def peakAmplitude (g : ℝ) : ℝ := 10 ^ (g / 40)

theorem peakAmplitude_sq (g : ℝ) : peakAmplitude g ^ 2 = 10 ^ (g / 20) := by
  rw [peakAmplitude, ← Real.rpow_mul_natCast (by norm_num)]
  congr 1
  push_cast
  ring

theorem peakBiquad_arith (f g q fs : ℝ) :
    peakBiquad arith f g q fs =
      peakSection (Real.sin (stageAngle f fs) / (2 * q) * peakAmplitude g)
        (Real.sin (stageAngle f fs) / (2 * q) / peakAmplitude g) (Real.cos (stageAngle f fs)) := by
  simp [peakBiquad, peakSection, stageAngle, peakAmplitude, arith, mul_comm Real.pi 2]

/-- Settles O46: the peak stage is `peakSection` with the bandwidth terms in the ratio `10^(g/20)`. -/
theorem peakDesign : Obligations.PeakDesign := by
  intro f g q fs hfs hf hf2 hq
  obtain ⟨hw0, hwpi⟩ := stageAngle_mem hfs hf hf2
  have hsin := Real.sin_pos_of_pos_of_lt_pi hw0 hwpi
  have hcos : |Real.cos (stageAngle f fs)| < 1 := by
    rw [← sq_lt_one_iff_abs_lt_one, Real.cos_sq']
    exact sub_lt_self 1 (pow_pos hsin 2)
  have ha : 0 < peakAmplitude g := Real.rpow_pos_of_pos (by norm_num) _
  have hr : 0 < Real.sin (stageAngle f fs) / (2 * q) / peakAmplitude g := by positivity
  have hu : Real.sin (stageAngle f fs) / (2 * q) * peakAmplitude g =
      10 ^ (g / 20) * (Real.sin (stageAngle f fs) / (2 * q) / peakAmplitude g) := by
    rw [← peakAmplitude_sq]
    field_simp
  rw [peakBiquad_arith]
  refine ⟨peakSection_at_one hr, peakSection_at_neg_one hr, peakSection_at_centre hr hu (exp_mul_I_sq _), ?_,
    peakSection_stable hr hcos⟩
  rintro rfl
  rw [zero_div, Real.rpow_zero, one_mul] at hu
  rw [hu]
  exact peakSection_identity hr

end Sys2Proof.Reference

/-! # The cut sections over the reals (R204 to R206) -/

namespace Sys2Proof.Reference

open Sys2Proof.Machine

/-! ## The unit circle at the cut-off -/

/-- At the angle `2φ` the pre-warped cut-off is `tan φ`, and `z - 1` is `i tan φ` times `z + 1`. -/
theorem exp_mul_I_sub_one {φ : ℝ} (h : Real.cos φ ≠ 0) :
    Complex.exp ((2 * φ : ℝ) * Complex.I) - 1 =
      Real.tan φ * Complex.I * (Complex.exp ((2 * φ : ℝ) * Complex.I) + 1) := by
  have hc : Complex.cos φ ≠ 0 := by exact_mod_cast h
  push_cast
  rw [Complex.exp_mul_I, Complex.cos_two_mul, Complex.sin_two_mul, Complex.tan_eq_sin_div_cos]
  field_simp
  linear_combination 2 * Complex.cos φ * Complex.cos_sq_add_sin_sq φ -
    2 * Complex.cos φ * Complex.sin φ ^ 2 * Complex.I_sq

/-- Strictly between 0 Hz and fs/2 `z` is neither 1 nor -1. -/
theorem exp_mul_I_sq_sub_one_ne_zero {w : ℝ} (h0 : 0 < w) (hpi : w < Real.pi) :
    Complex.exp (w * Complex.I) ^ 2 - 1 ≠ 0 := by
  intro h
  have hcos : Real.cos w * Complex.exp (w * Complex.I) = 1 := by linear_combination (h - exp_mul_I_sq w) / 2
  have hre : Real.cos w * Real.cos w = 1 := by
    simpa [Complex.exp_ofReal_mul_I_re, ← Complex.ofReal_cos] using congrArg Complex.re hcos
  nlinarith [Real.sin_sq_add_cos_sq w, Real.sin_pos_of_pos_of_lt_pi h0 hpi]

/-! ## The two sections -/

/-- A low-cut section from its pre-warped cut-off `n`, `p = n/q` and normalisation `c`. -/
def lowCutSection (n p c : ℝ) : Biquad ℝ :=
  { b0 := c, b1 := -2 * c, b2 := c, a1 := 2 * c * (n * n - 1), a2 := c * (1 - p + n * n) }

/-- A high-cut section has the same denominator. -/
def highCutSection (n p c : ℝ) : Biquad ℝ :=
  { lowCutSection n p c with b0 := n * n * c, b1 := 2 * n * n * c, b2 := n * n * c }

section

variable (n p c : ℝ)

theorem lowCutSection_num_at_one :
    (lowCutSection n p c).b0 + (lowCutSection n p c).b1 + (lowCutSection n p c).b2 = 0 := by
  simp only [lowCutSection]
  ring

theorem lowCutSection_num_at_neg_one :
    (lowCutSection n p c).b0 - (lowCutSection n p c).b1 + (lowCutSection n p c).b2 = 4 * c := by
  simp only [lowCutSection]
  ring

theorem highCutSection_num_at_one :
    (highCutSection n p c).b0 + (highCutSection n p c).b1 + (highCutSection n p c).b2 = 4 * (n * n * c) := by
  simp only [highCutSection]
  ring

theorem highCutSection_num_at_neg_one :
    (highCutSection n p c).b0 - (highCutSection n p c).b1 + (highCutSection n p c).b2 = 0 := by
  simp only [highCutSection]
  ring

end

section

variable {n p c : ℝ} (hc : c * (1 + p + n * n) = 1)

include hc

/-- The denominator at z = 1. -/
theorem lowCutSection_den_at_one :
    1 + (lowCutSection n p c).a1 + (lowCutSection n p c).a2 = 4 * (n * n * c) := by
  simp only [lowCutSection]
  linear_combination -hc

/-- The denominator at z = -1. -/
theorem lowCutSection_den_at_neg_one :
    1 - (lowCutSection n p c).a1 + (lowCutSection n p c).a2 = 4 * c := by
  simp only [lowCutSection]
  linear_combination -hc

/-- At the cut-off `(z - 1)^2` and `n^2 (z + 1)^2` cancel in the denominator. -/
theorem lowCutSection_den_at_cutoff {z : ℂ} (hz : z - 1 = n * Complex.I * (z + 1)) :
    z ^ 2 + (lowCutSection n p c).a1 * z + (lowCutSection n p c).a2 = (c * p : ℝ) * (z ^ 2 - 1) := by
  have hc' : (c * (1 + p + n * n) : ℂ) = 1 := by exact_mod_cast hc
  have hsq : (z - 1) ^ 2 = -(n * n * (z + 1) ^ 2) := by
    rw [hz]
    linear_combination (n : ℂ) ^ 2 * (z + 1) ^ 2 * Complex.I_sq
  simp only [lowCutSection]
  push_cast
  linear_combination c * hsq - z ^ 2 * hc'

end

theorem lowCutSection_num_at_cutoff {n p c : ℝ} {z : ℂ} (hz : z - 1 = n * Complex.I * (z + 1)) :
    (lowCutSection n p c).b0 * z ^ 2 + (lowCutSection n p c).b1 * z + (lowCutSection n p c).b2 =
      (c * n : ℝ) * Complex.I * (z ^ 2 - 1) := by
  simp only [lowCutSection]
  push_cast
  linear_combination c * (z - 1) * hz

theorem highCutSection_num_at_cutoff {n p c : ℝ} {z : ℂ} (hz : z - 1 = n * Complex.I * (z + 1)) :
    (highCutSection n p c).b0 * z ^ 2 + (highCutSection n p c).b1 * z + (highCutSection n p c).b2 =
      (c * n : ℝ) * -Complex.I * (z ^ 2 - 1) := by
  simp only [highCutSection]
  push_cast
  linear_combination c * n * Complex.I * (z + 1) * hz + c * n ^ 2 * (z + 1) ^ 2 * Complex.I_sq

section

variable {n p c q : ℝ} {z : ℂ} (hc : c * (1 + p + n * n) = 1) (hgain : c * n = q * (c * p))
  (hz : z - 1 = n * Complex.I * (z + 1))

include hc hz

/-- The denominator does not vanish at the cut-off. -/
theorem lowCutSection_den_ne_zero (hc0 : 0 < c) (hp : 0 < p) (hne : z ^ 2 - 1 ≠ 0) :
    0 < ‖z ^ 2 + (lowCutSection n p c).a1 * z + (lowCutSection n p c).a2‖ := by
  rw [lowCutSection_den_at_cutoff hc hz, norm_pos_iff]
  exact mul_ne_zero (Complex.ofReal_ne_zero.2 (mul_pos hc0 hp).ne') hne

include hgain

/-- A low-cut section has gain `q` and phase `i` at its cut-off. -/
theorem lowCutSection_gain_at_cutoff (hq : 0 < q) :
    ‖(lowCutSection n p c).b0 * z ^ 2 + (lowCutSection n p c).b1 * z + (lowCutSection n p c).b2‖ =
      q * ‖z ^ 2 + (lowCutSection n p c).a1 * z + (lowCutSection n p c).a2‖ := by
  rw [lowCutSection_num_at_cutoff hz, lowCutSection_den_at_cutoff hc hz, hgain]
  simp [abs_of_pos hq, mul_assoc]

/-- A high-cut section has gain `q` and phase `-i` at its cut-off. -/
theorem highCutSection_gain_at_cutoff (hq : 0 < q) :
    ‖(highCutSection n p c).b0 * z ^ 2 + (highCutSection n p c).b1 * z + (highCutSection n p c).b2‖ =
      q * ‖z ^ 2 + (highCutSection n p c).a1 * z + (highCutSection n p c).a2‖ := by
  have hden := lowCutSection_den_at_cutoff hc hz
  rw [highCutSection_num_at_cutoff hz, highCutSection, hden, hgain]
  simp [abs_of_pos hq, mul_assoc]

end

/-! ## The formulas of R204 to R206 -/

theorem sectionQuality_arith (M i : Nat) :
    sectionQuality arith M i = 1 / (2 * Real.cos ((2 * (i : ℝ) + 1) * Real.pi / (4 * (M : ℝ)))) := by
  simp [sectionQuality, arith, Arith.ofNat, mul_comm Real.pi]

theorem stageAngle_eq (f fs : ℝ) : stageAngle f fs = 2 * (Real.pi * f / fs) := by
  rw [stageAngle]
  ring

/-- Half the angle of a frequency below fs/2 is in (0, pi/2), where the tangent is positive. -/
theorem prewarp_pos {f fs : ℝ} (hfs : 0 < fs) (hf : 0 < f) (hf2 : 2 * f < fs) : 0 < prewarp arith f fs := by
  obtain ⟨hw0, hwpi⟩ := stageAngle_mem hfs hf hf2
  rw [stageAngle_eq] at hw0 hwpi
  change 0 < Real.tan (Real.pi * f / fs)
  exact Real.tan_pos_of_pos_of_lt_pi_div_two (by linarith) (by linarith)

theorem exp_stageAngle_sub_one {f fs : ℝ} (hfs : 0 < fs) (hf : 0 < f) (hf2 : 2 * f < fs) :
    Complex.exp (stageAngle f fs * Complex.I) - 1 =
      prewarp arith f fs * Complex.I * (Complex.exp (stageAngle f fs * Complex.I) + 1) := by
  obtain ⟨hw0, hwpi⟩ := stageAngle_mem hfs hf hf2
  rw [stageAngle_eq] at hw0 hwpi ⊢
  exact exp_mul_I_sub_one (Real.cos_pos_of_mem_Ioo ⟨by linarith, by linarith⟩).ne'

theorem lowCutBiquad_arith (f q fs : ℝ) :
    lowCutBiquad arith f q fs = lowCutSection (prewarp arith f fs) (prewarp arith f fs / q)
      (1 / (1 + prewarp arith f fs / q + prewarp arith f fs * prewarp arith f fs)) := by
  simp [lowCutBiquad, lowCutSection, sectionGain, sectionA1, sectionA2, arith]

theorem highCutBiquad_arith (f q fs : ℝ) :
    highCutBiquad arith f q fs = highCutSection (prewarp arith f fs) (prewarp arith f fs / q)
      (1 / (1 + prewarp arith f fs / q + prewarp arith f fs * prewarp arith f fs)) := by
  simp [highCutBiquad, highCutSection, lowCutSection, sectionGain, sectionA1, sectionA2, arith]

/-- Settles O47: both sections in `n`, `p = n/q` and `c`; at the cut-off all that is left of a polynomial is a multiple of
`z^2 - 1`. -/
theorem cutDesign : Obligations.CutDesign := by
  refine ⟨fun M i _ _ => sectionQuality_arith M i, fun f q fs hfs hf hf2 hq => ?_⟩
  obtain ⟨hw0, hwpi⟩ := stageAngle_mem hfs hf hf2
  have hne := exp_mul_I_sq_sub_one_ne_zero hw0 hwpi
  have hz := exp_stageAngle_sub_one hfs hf hf2
  have hn := prewarp_pos hfs hf hf2
  rw [lowCutBiquad_arith, highCutBiquad_arith]
  generalize prewarp arith f fs = n at hn hz ⊢
  have hp : 0 < n / q := by positivity
  have hnp : n = q * (n / q) := (mul_div_cancel₀ n hq.ne').symm
  generalize n / q = p at hp hnp ⊢
  have hc0 : 0 < 1 / (1 + p + n * n) := by positivity
  have hc : 1 / (1 + p + n * n) * (1 + p + n * n) = 1 := one_div_mul_cancel (by positivity)
  generalize 1 / (1 + p + n * n) = c at hc0 hc ⊢
  have hgain : c * n = q * (c * p) := by
    rw [hnp]
    ring
  have hone := lowCutSection_den_at_one hc
  have hneg := lowCutSection_den_at_neg_one hc
  have hone0 : 0 < 1 + (lowCutSection n p c).a1 + (lowCutSection n p c).a2 := by rw [hone]; positivity
  have hneg0 : 0 < 1 - (lowCutSection n p c).a1 + (lowCutSection n p c).a2 := by rw [hneg]; positivity
  have hden := lowCutSection_den_ne_zero hc hz hc0 hp hne
  exact ⟨lowCutSection_num_at_one n p c, (lowCutSection_num_at_neg_one n p c).trans hneg.symm, hneg0, hone0,
    (highCutSection_num_at_one n p c).trans hone.symm, highCutSection_num_at_neg_one n p c, hone0, hneg0,
    lowCutSection_gain_at_cutoff hc hgain hz hq, hden, highCutSection_gain_at_cutoff hc hgain hz hq, hden⟩

end Sys2Proof.Reference

/-! # The commands of the filter chain (R97, R210 to R215) -/

namespace Sys2Proof.Machine

/-! ## `CCOEF` (R202, R208, R210) -/

theorem State.tickDesign_of_settings {s : State} {c : ChainSettings Word} (h : s.settings = some c) (fs : Word) :
    s.tickDesign fs = s.computeCoeffs c fs := by
  simp only [State.tickDesign, h]

theorem State.computeCoeffs_of_valid {s : State} {c : ChainSettings Word} {fs : Word}
    (h : validSettings s.cfg.num c fs = true) :
    s.computeCoeffs c fs = { s with newc := some (design (Numeric.arith s.cfg.num) c fs) } := if_pos h

/-- Outside the domain of R202 the CoeffSet is the next free one (notes/assumptions/5.md). -/
theorem State.computeCoeffs_of_not_valid {s : State} {c : ChainSettings Word} {fs : Word}
    (h : validSettings s.cfg.num c fs = false) :
    s.computeCoeffs c fs = { s with newc := some (freeCoeffSet s.freeCtr), freeCtr := s.freeCtr + 1 } :=
  if_neg (ne_true_of_eq_false h)

theorem exec_ccoef {s : State} {c : ChainSettings Word} (hcur : s.cur = .B) (hset : s.settings = some c) (fs : Word) :
    exec (.ccoef fs) s = .next ((s.computeCoeffs c fs).finish (respond .ok 0)) := by
  have hready : causeOf (.ccoef fs) s = none :=
    (causeOf_eq_none ..).2 ⟨rfl, beq_iff_eq.2 hcur, Option.isSome_of_eq_some hset, rfl, rfl⟩
  rw [exec_of_causeOf_none hready, effect, State.tickDesign_of_settings hset]

/-- Settles O40: `CCOEF` runs the design of R208, or draws a free CoeffSet. -/
theorem ccoefResult : Obligations.CcoefResult := by
  intro s fs c hcur hset
  rw [exec_ccoef hcur hset]
  refine ⟨fun h => ?_, fun h => ⟨freeCoeffSet s.freeCtr, s.freeCtr + 1, ?_⟩⟩
  · rw [State.computeCoeffs_of_valid h]
  · rw [State.computeCoeffs_of_not_valid h]

/-! ## `APPLY` and `RDCOEF` (R212, R213) -/

/-- The flags of the nine stages and the three groups, in the order of their bits. -/
def CoeffSet.flagBits (c : CoeffSet Word) : List Bool :=
  [c.stage.lc0.byp, c.stage.lc1.byp, c.stage.lc2.byp, c.stage.lc3.byp, c.stage.pk.byp, c.stage.hc0.byp,
    c.stage.hc1.byp, c.stage.hc2.byp, c.stage.hc3.byp, c.gbypLC, c.gbypPK, c.gbypHC]

/-- Bit `j` of the flags word is flag `j`, and 0 above the flags. -/
theorem CoeffSet.getLsbD_flags (c : CoeffSet Word) (j : Nat) : c.flags.getLsbD j = c.flagBits.getD j false := by
  simp only [CoeffSet.flags, BitVec.getLsbD_or, getLsbD_bitAt]
  by_cases hj : j < 12
  · interval_cases j <;> simp [CoeffSet.flagBits]
  · have habove : ∀ i < 12, decide (j = i) = false := fun i hi => decide_eq_false (by omega)
    rw [List.getD_eq_default _ _ (Nat.not_lt.1 hj)]
    simp [habove]

theorem exec_apply {s : State} {c : CoeffSet Word} (hcur : s.cur = .B) (hnewc : s.newc = some c) :
    exec .apply s = .next (State.finish { s with mbox := some c } (respond .ok 0)) := by
  have hready : causeOf .apply s = none :=
    (causeOf_eq_none ..).2 ⟨rfl, beq_iff_eq.2 hcur, Option.isSome_of_eq_some hnewc, rfl, rfl⟩
  rw [exec_of_causeOf_none hready, effect, State.postCoeffs, hnewc]

theorem exec_rdcoef {s : State} {c : CoeffSet Word} (hcur : s.cur = .B) (hnewc : s.newc = some c) :
    exec .rdcoef s = .next (s.finish (respondWith 46 c.words)) := by
  have hready : causeOf .rdcoef s = none :=
    (causeOf_eq_none ..).2 ⟨rfl, beq_iff_eq.2 hcur, Option.isSome_of_eq_some hnewc, rfl, rfl⟩
  simp only [exec_of_causeOf_none hready, effect, hnewc]

/-- Settles O42: the mailbox takes `NEWC`; the payload is the flags word and the coefficients stage by stage. -/
theorem applyRdcoefResult : Obligations.ApplyRdcoefResult := by
  intro s c hcur hnewc
  refine ⟨exec_apply hcur hnewc, c.flags, c.words.tail, exec_rdcoef hcur hnewc, fun j b hb => ?_, fun j hj => ?_, rfl⟩
  · rw [c.getLsbD_flags, List.getD_eq_getElem?_getD]
    exact congrArg (·.getD false) hb
  · rw [c.getLsbD_flags, List.getD_eq_default _ _ hj]

/-! ## `PROC` (R97, R214, R215) -/

/-- Settles O43: the channels of a whole `PROC`, each with its slice of the payload. -/
theorem procResult : Obligations.ProcResult := by
  intro s n xs hcur hsplit act slice run
  have hproc : processChannels (Numeric.arith s.cfg.num) s.procCoeffs n.toNat s.chans xs =
      ((List.range s.nch).flatMap fun c => (run c).1,
        (List.range s.nch).map fun c => { s.chan c with z := (run c).2 }) :=
    processChannels_eq (Numeric.arith s.cfg.num) act n.toNat (Channel.afterReset s.cfg.num) s.chans xs
  rw [proc_whole n xs s hcur hsplit, hproc]
  rfl

end Sys2Proof.Machine

/-! # What the filter, register and tick commands leave unchanged (R210, R212, R214, R242, R245, R247, R248) -/

namespace Sys2Proof.Machine

namespace State

/-! ## Operations -/

theorem latchSettings_frame (s : State) : s.latchSettings = { s with settings := s.latchSettings.settings } := by
  unfold latchSettings
  split <;> rfl

theorem tickDesign_frame (s : State) (fs : Word) :
    s.tickDesign fs = { s with newc := (s.tickDesign fs).newc, freeCtr := (s.tickDesign fs).freeCtr } := by
  unfold tickDesign
  split
  · rfl
  · unfold computeCoeffs
    split <;> rfl

theorem writeReg_fields (s : State) (r : Reg) (v : Word) :
    s.writeReg r v = { s with
      params := (s.writeReg r v).params, pchg := (s.writeReg r v).pchg, floorDb := (s.writeReg r v).floorDb
      stride := (s.writeReg r v).stride, blkLen := (s.writeReg r v).blkLen } := by
  cases r <;> rfl

end State

/-! ## Reading a register after a write (R23 to R26, R242) -/

/-- A register that does not show other state, as the three status registers do (R26). -/
def Reg.IsStored (reg : Reg) : Prop := reg ≠ .status ∧ reg ≠ .errCause ∧ reg ≠ .errWord

/-- The numbers of the status registers (R26). -/
theorem regOf_isStored {nch : Nat} {r : BitVec 8} {reg : Reg} (hr : regOf nch r = some reg) (h20 : r ≠ 0x20)
    (h21 : r ≠ 0x21) (h22 : r ≠ 0x22) : reg.IsStored := by
  have hnumber := regOf_number nch r reg hr
  refine ⟨?_, ?_, ?_⟩ <;> rintro rfl
  · exact h20 (BitVec.eq_of_toNat_eq hnumber)
  · exact h21 (BitVec.eq_of_toNat_eq hnumber)
  · exact h22 (BitVec.eq_of_toNat_eq hnumber)

namespace State

theorem readReg_congr {reg : Reg} (h : reg.IsStored) (s : State) (err : Err) (ports : Ports) (pchg : Bool) :
    { s with err := err, ports := ports, pchg := pchg }.readReg reg = s.readReg reg := by
  obtain ⟨hstatus, hcause, hword⟩ := h
  cases reg with
  | status => exact absurd rfl hstatus
  | errCause => exact absurd rfl hcause
  | errWord => exact absurd rfl hword
  | _ => rfl

/-- A store changes what its own register reads. -/
theorem readReg_storeReg_ne {r reg : Reg} (h : reg.IsStored) (hne : reg ≠ r) (s : State) (v : Word) :
    (s.storeReg r v).readReg reg = s.readReg reg := by
  obtain ⟨hstatus, hcause, hword⟩ := h
  cases reg with
  | status => exact absurd rfl hstatus
  | errCause => exact absurd rfl hcause
  | errWord => exact absurd rfl hword
  | ordr ch => simp [readReg, chan]
  | _ => cases r <;> trivial

theorem readReg_writeReg_ne {r reg : Reg} (h : reg.IsStored) (hne : reg ≠ r) (s : State) (v : Word) :
    (s.writeReg r v).readReg reg = s.readReg reg := by
  have hpchg : s.writeReg r v = { s.storeReg r v with pchg := (s.writeReg r v).pchg } := by
    unfold writeReg
    split <;> rfl
  rw [hpchg]
  exact (readReg_congr h _ _ _ _).trans (readReg_storeReg_ne h hne s v)

end State

/-! ## Commands -/

/-- A command that answers a next state wrote `ERR` and its port alone, or had its effect. -/
theorem exec_next_cases {i : Instr} {s t : State} (h : exec i s = .next t) :
    (∃ err ports, t = { s with err := err, ports := ports }) ∨ effect i s = .next t := by
  rcases exec_next i s t h with ⟨c, -, rfl⟩ | ⟨-, he⟩
  · exact .inl ⟨_, _, State.raise_eq s c i.word⟩
  · exact .inr he

theorem effect_proc_frame {n : BitVec 18} {xs : List Word} {s t : State} (h : effect (.proc n xs) s = .next t) :
    t = { s with err := t.err, ports := t.ports, act := t.act, mbox := t.mbox, chans := t.chans } ∧ t.nch = s.nch := by
  refine ⟨?_, congrArg (·.2.1) (effect_regs (by simp) h)⟩
  simp only [effect, State.takeCoeffs_eq] at h
  split_ifs at h <;> cases h <;> rfl

theorem effect_ccoef_frame {fs : Word} {s t : State} (h : effect (.ccoef fs) s = .next t) :
    t = { s with err := t.err, ports := t.ports, newc := t.newc, freeCtr := t.freeCtr } := by
  cases h
  rw [State.tickDesign_frame]
  rfl

theorem effect_wrr_frame {r : BitVec 8} {v : Word} {s t : State} (h : effect (.wrr r v) s = .next t) :
    t = { s with err := t.err, ports := t.ports, params := t.params, pchg := t.pchg, floorDb := t.floorDb
                 stride := t.stride, blkLen := t.blkLen } ∧
      ∀ r', r' ≠ r → r' ≠ 0x20 → r' ≠ 0x21 → r' ≠ 0x22 → ∀ reg, regOf s.nch r' = some reg →
        t.readReg reg = s.readReg reg := by
  simp only [effect] at h
  split at h <;> cases h
  · exact ⟨rfl, fun _ _ _ _ _ _ _ => rfl⟩
  · next written hwritten =>
    refine ⟨?_, fun r' hne h20 h21 h22 reg hreg => ?_⟩
    · rw [State.writeReg_fields]
      rfl
    · have hstored := regOf_isStored hreg h20 h21 h22
      refine (State.readReg_congr hstored _ _ _ _).trans (State.readReg_writeReg_ne hstored ?_ s v)
      rintro rfl
      exact hne (regOf_injective s.nch r' r reg hreg hwritten)

theorem effect_snap_frame {s t : State} (h : effect .snap s = .next t) :
    t = { s with err := t.err, ports := t.ports, settings := t.settings } := by
  cases h
  rw [State.latchSettings_frame]
  rfl

theorem effect_tick_frame {fs : Word} {s t : State} (h : effect (.tick fs) s = .next t) :
    t = { s with err := t.err, ports := t.ports, pchg := t.pchg, settings := t.settings, newc := t.newc, mbox := t.mbox
                 freeCtr := t.freeCtr } := by
  simp only [effect] at h
  split_ifs at h <;> cases h
  · rfl
  · rfl
  · rw [State.tickDesign_frame, State.latchSettings_frame]
    rfl

/-- Settles O58: a refusal changes `ERR` and the ports alone, and each effect is made of operations with frames of their
own. -/
theorem filterAndRegisterFrame : Obligations.FilterAndRegisterFrame := by
  intro s t
  refine ⟨fun fs h => ?_, fun h => ?_, fun n xs h => ?_, fun r v h => ?_, fun h => ?_, fun h => ?_, fun fs h => ?_⟩
  · rcases exec_next_cases h with ⟨err, ports, rfl⟩ | he
    · rfl
    · exact effect_ccoef_frame he
  · rcases exec_next_cases h with ⟨err, ports, rfl⟩ | he
    · rfl
    · cases he
      rfl
  · have hchan (d : Nat) : t.chan d = { s.chan d with z := (t.chan d).z } := by
      rcases exec_after h d with hd | ⟨z, hd⟩ <;> rw [hd]
    rcases exec_next_cases h with ⟨err, ports, rfl⟩ | he
    · exact ⟨rfl, rfl, hchan⟩
    · obtain ⟨hstate, hnch⟩ := effect_proc_frame he
      exact ⟨hstate, hnch, hchan⟩
  · rcases exec_next_cases h with ⟨err, ports, rfl⟩ | he
    · exact ⟨rfl, fun r' _ h20 h21 h22 reg hreg =>
        State.readReg_congr (regOf_isStored hreg h20 h21 h22) s err ports s.pchg⟩
    · exact effect_wrr_frame he
  · rcases exec_next_cases h with ⟨err, ports, rfl⟩ | he
    · rfl
    · exact effect_snap_frame he
  · rcases exec_next_cases h with ⟨err, ports, rfl⟩ | he
    · rfl
    · cases he
      rfl
  · rcases exec_next_cases h with ⟨err, ports, rfl⟩ | he
    · rfl
    · exact effect_tick_frame he

end Sys2Proof.Machine

/-! # A command none of whose checks fires (R220, R271, R273, R311) -/

namespace Sys2Proof.Machine

namespace State

/-! ## Responses other than `FAULT` -/

/-- From `s` to `t` the current port answered something other than `FAULT`, or nothing. -/
def Unfaulted (s t : State) : Prop :=
  (∃ r, r.status ≠ .fault ∧ t.ports = (s.finish r).ports) ∨ (t.port s.cur).out = (s.port s.cur).out

variable {s t : State}

theorem Unfaulted.response_ne_fault (h : s.Unfaulted t) {r : Response}
    (hr : (t.port s.cur).out = r :: (s.port s.cur).out) : r.status ≠ .fault := by
  rcases h with ⟨r', hr', hports⟩ | hout
  · have hout : (t.port s.cur).out = r' :: (s.port s.cur).out :=
      congrArg PortState.out ((congrArg (Ports.get · s.cur) hports).trans (finish_port_cur s r'))
    obtain rfl : r' = r := (List.cons.inj (hout.symm.trans hr)).1
    exact hr'
  · exact absurd (hout.symm.trans hr).symm (List.cons_ne_self r _)

theorem Unfaulted.refl (s : State) : s.Unfaulted s := .inr rfl

/-- The end of a command whose operations touched no port. -/
theorem Unfaulted.finish {r : Response} (hr : r.status ≠ .fault) (hports : t.ports = s.ports) (hturn : t.turn = s.turn) :
    s.Unfaulted (t.finish r) := .inl ⟨r, hr, finish_ports_congr hports hturn r⟩

theorem Unfaulted.setBusy (hports : t.ports = s.ports) (hturn : t.turn = s.turn) (m : Micro) :
    s.Unfaulted (t.setBusy m) := by
  have hport : (t.setBusy m).port s.cur = (s.setBusy m).port s.cur :=
    congrArg (Ports.get · s.cur) (setBusy_ports_congr hports hturn m)
  refine .inr ?_
  rw [hport, setBusy_port_cur]

theorem pushStatus_ne_fault (c : Channel) (k : FifoKind) : pushStatus c k ≠ .fault := by
  unfold pushStatus
  split <;> nofun

theorem unfaulted_beginPush (s : State) (c : Nat) (x : Item) : s.Unfaulted (s.beginPush c x) := by
  unfold beginPush
  split_ifs
  · exact .finish nofun rfl rfl
  · exact .setBusy rfl rfl _
  · exact .finish nofun rfl rfl

theorem unfaulted_beginPull (s : State) (c : Nat) (k : FifoKind) : s.Unfaulted (s.beginPull c k) := by
  unfold beginPull
  split_ifs
  · exact .finish nofun rfl rfl
  · exact .setBusy rfl rfl _
  · exact .finish nofun rfl rfl

theorem unfaulted_beginFeed (s : State) (c : Nat) : s.Unfaulted (s.beginFeed c) := by
  unfold beginFeed
  split_ifs
  · exact .finish nofun rfl rfl
  · exact .setBusy rfl rfl _
  · exact .finish nofun rfl rfl

end State

/-! ## Effects -/

/-- No effect answers `FAULT`. -/
theorem effect_unfaulted {i : Instr} {s t : State} (h : effect i s = .next t) : s.Unfaulted t := by
  cases i with
  | fprep ch k cap =>
    simp only [effect] at h
    split at h
    · cases h
      exact .refl s
    · split_ifs at h
      cases h
      exact .finish nofun rfl rfl
  | fpush ch k item =>
    simp only [effect] at h
    split at h
    · cases h
      exact .refl s
    · split at h <;> cases h
      · exact .refl s
      · exact State.unfaulted_beginPush s _ _
  | fpull ch k =>
    simp only [effect] at h
    split at h <;> cases h
    · exact .refl s
    · exact State.unfaulted_beginPull s _ _
  | favail ch k | fovf ch k | chord ch k | rdcoef =>
    simp only [effect] at h
    split at h <;> cases h
    · exact .refl s
    · exact .finish nofun rfl rfl
  | rfeed ch =>
    cases h
    exact State.unfaulted_beginFeed s _
  | spec ch f =>
    cases h
    exact .finish (State.pushStatus_ne_fault _ _) rfl rfl
  | cgen ch bx bt bw bh b f =>
    rcases of_ite_eq h with ⟨-, h⟩ | ⟨-, h⟩ <;> cases h
    · exact .finish nofun rfl rfl
    · exact .finish (State.pushStatus_ne_fault _ _) rfl rfl
  | cget ch | rdcrv ch | apply | tclr =>
    cases h
    exact .finish nofun rfl rfl
  | ccoef fs =>
    cases h
    exact .finish nofun (State.tickDesign_ports s fs) (State.tickDesign_turn s fs)
  | snap =>
    cases h
    exact .finish nofun (State.latchSettings_ports s) (State.latchSettings_turn s)
  | proc n xs =>
    rcases of_ite_eq h with ⟨-, h⟩ | ⟨-, h⟩ <;> cases h
    · exact .setBusy (State.takeCoeffs_ports s) (State.takeCoeffs_turn s) _
    · exact .finish (t := { s.takeCoeffs with chans := _ }) nofun (State.takeCoeffs_ports s) (State.takeCoeffs_turn s)
  | wrr r v =>
    simp only [effect] at h
    split at h <;> cases h
    · exact .refl s
    · obtain ⟨-, -, hports, hturn⟩ := State.writeReg_frame s _ v
      exact .finish nofun hports hturn
  | rdr r =>
    simp only [effect] at h
    split at h
    · cases h
      exact .refl s
    · split at h <;> cases h
      · exact .refl s
      · exact .finish nofun rfl rfl
  | tick fs =>
    rcases of_ite_eq h with ⟨-, h⟩ | ⟨-, h⟩
    · cases h
      exact .finish nofun rfl rfl
    · rcases of_ite_eq h with ⟨-, h⟩ | ⟨-, h⟩ <;> cases h
      · exact .setBusy rfl rfl _
      · exact .finish nofun (by simp) (by simp)
  | poll ch fs bx bt bw bh =>
    rcases of_ite_eq h with ⟨-, h⟩ | ⟨-, h⟩ <;> cases h
    · exact .setBusy rfl rfl _
    · exact .finish nofun rfl rfl

/-- The one effect that is no next state is that of an `FPREP SF[ch]` inside an `FPUSH SF[ch]` (R311). -/
theorem effect_next_or_refused (i : Instr) (s : State) :
    (∃ t, effect i s = .next t) ∨ (effect i s = .refused .prepDuringPush ∧
      ∃ ch cap, i = .fprep ch 0 cap ∧ s.pushInFlight ch.toNat = true) := by
  cases i with
  | fprep ch k cap =>
    simp only [effect]
    split
    · exact .inl ⟨_, rfl⟩
    · next kind hk =>
      split
      · next hpush =>
        obtain ⟨hsf, hflight⟩ := Bool.and_eq_true_iff.1 hpush
        obtain rfl : k = 0 := (fifoKind_eq_sf hk).1 (beq_iff_eq.1 hsf)
        exact .inr ⟨rfl, ch, cap, rfl, hflight⟩
      · exact .inl ⟨_, rfl⟩
  | _ =>
    left
    simp only [effect]
    repeat' split
    all_goals exact ⟨_, rfl⟩

/-- Settles O12: a command that passes its checks has its effect. -/
theorem unrefusedCommand : Obligations.UnrefusedCommand := by
  intro i s hc
  rw [exec_of_causeOf_none hc]
  refine (effect_next_or_refused i s).imp_left ?_
  rintro ⟨t, ht⟩
  exact ⟨t, ht, effect_err ht, fun _ hr => (effect_unfaulted ht).response_ne_fault hr⟩

end Sys2Proof.Machine

/-! # A sample FIFO prepared during a push (R311) -/

namespace Sys2Proof.Machine

theorem State.fifoSel_isSome_of_kind {s : State} {ch : BitVec 4} {k : BitVec 2} {kind : FifoKind}
    (hk : fifoKind k = some kind) : (s.fifoSel ch k).isSome = true ↔ ch.toNat < s.nch := by
  refine ⟨fun h => ?_, fun hn => ?_⟩
  · obtain ⟨-, -, -, hn⟩ := State.fifoSel_isSome h
    exact hn
  · rw [State.fifoSel_of_kind hk hn]
    rfl

/-- What the checks of an `FPREP SF[ch]` ask for (R124, R273). -/
theorem causeOf_fprep_sf {s : State} {ch : BitVec 4} {cap : BitVec 18} :
    causeOf (.fprep ch 0 cap) s = none ↔
      ch.toNat < s.nch ∧ s.cur = .B ∧ s.blkLen.isSome = true ∧ cap ≠ 0 ∧ cap.toNat ≤ s.cfg.cmax := by
  have hsel : (s.fifoSel ch 0).isSome = true ↔ ch.toNat < s.nch := State.fifoSel_isSome_of_kind (kind := .sf) rfl
  have hprepared : preparedOk (.fprep ch 0 cap) s = true := rfl
  have hwritten : writtenOk (.fprep ch 0 cap) s = s.blkLen.isSome := rfl
  simp only [causeOf_eq_none, selectorsOk, hsel, legalOn, beq_iff_eq, hprepared, hwritten, operandsOk,
    Bool.and_eq_true, bne_iff_ne, decide_eq_true_iff, true_and]

/-- The two steps left of a push into `SF[ch]`: to copy the block and to publish it (R125). -/
theorem State.pushInFlight_iff {s : State} {ch : Nat} : s.pushInFlight ch = true ↔
    (∃ xs, s.ports.a.busy = some (.pushCopy ch (.samples xs))) ∨ s.ports.a.busy = some (.pushPublish ch .sf) := by
  unfold State.pushInFlight
  split
  · next hb => simp [hb]
  · next hb => simp [hb]
  · next hcopy hpublish =>
    refine iff_of_false nofun ?_
    rintro (⟨xs, hb⟩ | hb)
    · exact hcopy _ _ hb
    · exact hpublish _ hb

/-- Settles O16: every check of the `FPREP` passes, and agent A's push is in flight. -/
theorem fprepDuringPush : Obligations.FprepDuringPush := by
  intro s ch cap n hcur hn h0 h1 hblk hbusy
  have hcap : cap ≠ 0 := fun h => by simp [h] at h0
  have hready : causeOf (.fprep ch 0 cap) s = none := causeOf_fprep_sf.2 ⟨hn, hcur, by rw [hblk]; rfl, hcap, h1⟩
  have hflight : s.pushInFlight ch.toNat = true := State.pushInFlight_iff.2 hbusy
  rw [exec_of_causeOf_none hready]
  exact if_pos hflight

end Sys2Proof.Machine
